-- ==== Sys2Proof/Word.lean ====
section
/-! DEFINITION. The word types of the hardware (00_scope.md R7, R9 to R11; 30_encoding.md R81). -/

namespace Sys2Proof

/-- A byte: a general register, a timer, a memory cell, an NN immediate. -/
abbrev Byte := BitVec 8

/-- 16 bits: an opcode, `pc`, `I`, a call-stack entry, a field of the fault record. -/
abbrev Word := BitVec 16

/-- A 4-bit field of an opcode (30_encoding.md R81), also a key index (10_state.md R47). -/
abbrev Nibble := BitVec 4

/-- The 12-bit immediate NNN. -/
abbrev Imm12 := BitVec 12

/-- A register index 0..15: every index an opcode can hold is in range (10_state.md R20). -/
abbrev RegIdx := BitVec 4

/-- VF, the flag register: register index 0xF (10_state.md R21). -/
abbrev vf : RegIdx := 0xF#4

end Sys2Proof
end

