-- ==== Sys2Proof/Syntax.lean ====
section
/-! DEFINITION. The 34 instructions, one constructor per row of spec/opcode_table.json (30_encoding.md R93).

The operands are the fields the row names; the don't-care nibbles (`?`, 30_encoding.md R89) are no operands (log 13). -/

namespace Sys2Proof

/-- One instruction. The comment of each constructor gives its pattern and assembler form (30_encoding.md R93). -/
inductive Instr where
  /-- `0??0` CLS -/
  | cls
  /-- `0??N` RET, N not 0; N selects RET and has no other use -/
  | ret (n : Nibble)
  /-- `1NNN` JP NNN -/
  | jp (nnn : Imm12)
  /-- `2NNN` CALL NNN -/
  | call (nnn : Imm12)
  /-- `3XNN` SE Vx, NN -/
  | seImm (x : RegIdx) (nn : Byte)
  /-- `4XNN` SNE Vx, NN -/
  | sneImm (x : RegIdx) (nn : Byte)
  /-- `5XY?` SE Vx, Vy -/
  | seReg (x y : RegIdx)
  /-- `6XNN` LD Vx, NN -/
  | ldImm (x : RegIdx) (nn : Byte)
  /-- `7XNN` ADD Vx, NN -/
  | addImm (x : RegIdx) (nn : Byte)
  /-- `8XY0` LD Vx, Vy -/
  | ldReg (x y : RegIdx)
  /-- `8XY1` OR Vx, Vy -/
  | orReg (x y : RegIdx)
  /-- `8XY2` AND Vx, Vy -/
  | andReg (x y : RegIdx)
  /-- `8XY3` XOR Vx, Vy -/
  | xorReg (x y : RegIdx)
  /-- `8XY4` ADD Vx, Vy -/
  | addReg (x y : RegIdx)
  /-- `8XY5` SUB Vx, Vy -/
  | subReg (x y : RegIdx)
  /-- `8X?6` SHR Vx -/
  | shr (x : RegIdx)
  /-- `8XY7` SUBN Vx, Vy -/
  | subnReg (x y : RegIdx)
  /-- `8X?E` SHRE Vx -/
  | shre (x : RegIdx)
  /-- `9XY?` SNE Vx, Vy -/
  | sneReg (x y : RegIdx)
  /-- `ANNN` LD I, NNN -/
  | ldI (nnn : Imm12)
  /-- `BNNN` JP V0, NNN -/
  | jpV0 (nnn : Imm12)
  /-- `CXNN` RND Vx, NN -/
  | rnd (x : RegIdx) (nn : Byte)
  /-- `DXYN` DRW Vx, Vy, N -/
  | drw (x y : RegIdx) (n : Nibble)
  /-- `EX?1` SKP Vx -/
  | skp (x : RegIdx)
  /-- `EX?E` SKNP Vx -/
  | sknp (x : RegIdx)
  /-- `FX?3` LD B, Vx -/
  | ldB (x : RegIdx)
  /-- `FX15` LD15 Vx, DT -/
  | ld15 (x : RegIdx)
  /-- `FX55` LD [I], Vx -/
  | storeRegs (x : RegIdx)
  /-- `FX65` LD Vx, [I] -/
  | loadRegs (x : RegIdx)
  /-- `FX?7` LD Vx, DT -/
  | ldDt (x : RegIdx)
  /-- `FX?8` LD ST, Vx -/
  | ldSt (x : RegIdx)
  /-- `FX?9` LD F, Vx -/
  | ldF (x : RegIdx)
  /-- `FX?A` LD Vx, K -/
  | ldK (x : RegIdx)
  /-- `FX?E` ADD I, Vx -/
  | addI (x : RegIdx)
  deriving DecidableEq, Repr

end Sys2Proof
end

