-- ==== Sys2Proof/WellFormed.lean ====
section
/-! DEFINITION. Which terms of `Instr` stand for words of the hardware (30_encoding.md R81, R93).

Every field's width is in its type; the one check left is the constraint of row 2, RET: N is not 0. -/

namespace Sys2Proof

/-- The constraints of the opcode table's rows (30_encoding.md R93): row 2, `0??N` with N ≠ 0; the other rows have none. -/
def Instr.wf : Instr → Bool
  | .ret n => n != 0
  | .cls => true
  | .jp _ => true
  | .call _ => true
  | .seImm _ _ => true
  | .sneImm _ _ => true
  | .seReg _ _ => true
  | .ldImm _ _ => true
  | .addImm _ _ => true
  | .ldReg _ _ => true
  | .orReg _ _ => true
  | .andReg _ _ => true
  | .xorReg _ _ => true
  | .addReg _ _ => true
  | .subReg _ _ => true
  | .shr _ => true
  | .subnReg _ _ => true
  | .shre _ => true
  | .sneReg _ _ => true
  | .ldI _ => true
  | .jpV0 _ => true
  | .rnd _ _ => true
  | .drw _ _ _ => true
  | .skp _ => true
  | .sknp _ => true
  | .ldB _ => true
  | .ld15 _ => true
  | .storeRegs _ => true
  | .loadRegs _ => true
  | .ldDt _ => true
  | .ldSt _ => true
  | .ldF _ => true
  | .ldK _ => true
  | .addI _ => true

end Sys2Proof
end

