-- ==== Sys2Proof/Decode.lean ====
section
/-! DEFINITION. From bytes to an instruction and back (30_encoding.md; 20_memory.md R52). -/

namespace Sys2Proof

/-- Why a sequence of bytes is no instruction. -/
inductive Reject where
  /-- No row of the opcode table matches the word (30_encoding.md R90). -/
  | unknownOpcode (op : Word)
  /-- Fewer than the two bytes an instruction always has (30_encoding.md R80). -/
  | truncated
  deriving DecidableEq, Repr

/-- `{hi, lo}`: the first byte is the high byte of the opcode (20_memory.md R52). -/
def wordOfBytes (hi lo : Byte) : Word := hi ++ lo

/-- The high byte of a word, stored first (20_memory.md R52). -/
def highByte (w : Word) : Byte := w.extractLsb' 8 8

/-- The low byte of a word, stored second (20_memory.md R52). -/
def lowByte (w : Word) : Byte := w.extractLsb' 0 8

/-- `nibble(op, p) = op[4p+3:4p]` (30_encoding.md R82). -/
def nibble (op : Word) (p : Nat) : Nibble := op.extractLsb' (4 * p) 4

/-- The family F, `op[15:12]` (30_encoding.md R81). -/
def fieldF (op : Word) : Nibble := nibble op 3

/-- The field X, `op[11:8]` (30_encoding.md R81). -/
def fieldX (op : Word) : RegIdx := nibble op 2

/-- The field Y, `op[7:4]` (30_encoding.md R81). -/
def fieldY (op : Word) : RegIdx := nibble op 1

/-- The field N, `op[3:0]` (30_encoding.md R81). -/
def fieldN (op : Word) : Nibble := nibble op 0

/-- The field NN, `op[7:0]` (30_encoding.md R81; 90_conflicts.md C1). -/
def fieldNN (op : Word) : Byte := op.extractLsb' 0 8

/-- The field NNN, `op[11:0]` (30_encoding.md R81; 90_conflicts.md C1). -/
def fieldNNN (op : Word) : Imm12 := op.extractLsb' 0 12

/-- Family 0 sub-dispatches on N alone (30_encoding.md R85). -/
def decodeFamily0 (op : Word) : Except Reject Instr :=
  match fieldN op with
  | 0x0 => .ok .cls
  | n => .ok (.ret n)

/-- Family 8 sub-dispatches on N (30_encoding.md R86). -/
def decodeFamily8 (op : Word) : Except Reject Instr :=
  match fieldN op with
  | 0x0 => .ok (.ldReg (fieldX op) (fieldY op))
  | 0x1 => .ok (.orReg (fieldX op) (fieldY op))
  | 0x2 => .ok (.andReg (fieldX op) (fieldY op))
  | 0x3 => .ok (.xorReg (fieldX op) (fieldY op))
  | 0x4 => .ok (.addReg (fieldX op) (fieldY op))
  | 0x5 => .ok (.subReg (fieldX op) (fieldY op))
  | 0x6 => .ok (.shr (fieldX op))
  | 0x7 => .ok (.subnReg (fieldX op) (fieldY op))
  | 0xE => .ok (.shre (fieldX op))
  | _ => .error (.unknownOpcode op)

/-- Family E sub-dispatches on N (30_encoding.md R87). -/
def decodeFamilyE (op : Word) : Except Reject Instr :=
  match fieldN op with
  | 0x1 => .ok (.skp (fieldX op))
  | 0xE => .ok (.sknp (fieldX op))
  | _ => .error (.unknownOpcode op)

/-- F??5 sub-dispatches further on Y (30_encoding.md R88). -/
def decodeFamilyF5 (op : Word) : Except Reject Instr :=
  match fieldY op with
  | 0x1 => .ok (.ld15 (fieldX op))
  | 0x5 => .ok (.storeRegs (fieldX op))
  | 0x6 => .ok (.loadRegs (fieldX op))
  | _ => .error (.unknownOpcode op)

/-- Family F sub-dispatches on N (30_encoding.md R88). -/
def decodeFamilyF (op : Word) : Except Reject Instr :=
  match fieldN op with
  | 0x3 => .ok (.ldB (fieldX op))
  | 0x5 => decodeFamilyF5 op
  | 0x7 => .ok (.ldDt (fieldX op))
  | 0x8 => .ok (.ldSt (fieldX op))
  | 0x9 => .ok (.ldF (fieldX op))
  | 0xA => .ok (.ldK (fieldX op))
  | 0xE => .ok (.addI (fieldX op))
  | _ => .error (.unknownOpcode op)

/-- `decode(op)` (30_encoding.md R84, R92): the instruction of the word, or the unknown opcode by name. -/
def decode (op : Word) : Except Reject Instr :=
  match fieldF op with
  | 0x0 => decodeFamily0 op
  | 0x1 => .ok (.jp (fieldNNN op))
  | 0x2 => .ok (.call (fieldNNN op))
  | 0x3 => .ok (.seImm (fieldX op) (fieldNN op))
  | 0x4 => .ok (.sneImm (fieldX op) (fieldNN op))
  | 0x5 => .ok (.seReg (fieldX op) (fieldY op))
  | 0x6 => .ok (.ldImm (fieldX op) (fieldNN op))
  | 0x7 => .ok (.addImm (fieldX op) (fieldNN op))
  | 0x8 => decodeFamily8 op
  | 0x9 => .ok (.sneReg (fieldX op) (fieldY op))
  | 0xA => .ok (.ldI (fieldNNN op))
  | 0xB => .ok (.jpV0 (fieldNNN op))
  | 0xC => .ok (.rnd (fieldX op) (fieldNN op))
  | 0xD => .ok (.drw (fieldX op) (fieldY op) (fieldN op))
  | 0xE => decodeFamilyE op
  | _ => decodeFamilyF op

/-- The decoder over bytes: it consumes exactly two (30_encoding.md R80, R95) and hands back the rest. -/
def decodeBytes : List Byte → Except Reject (Instr × List Byte)
  | hi :: lo :: rest =>
    match decode (wordOfBytes hi lo) with
    | .ok i => .ok (i, rest)
    | .error r => .error r
  | [_] => .error .truncated
  | [] => .error .truncated

/-- The opcode a row of spec/opcode_table.json stands for: `nbits` bits of `w`, the higher ones 0. -/
def tableOpcode (nbits w : Nat) : Word := BitVec.ofNat 16 (w % 2 ^ nbits)

/-- What the decoder reads from the bytes of an opcode-table word, stored high byte first (20_memory.md R52). -/
def decodeTableWord (nbits w : Nat) : Option Instr :=
  match decodeBytes [highByte (tableOpcode nbits w), lowByte (tableOpcode nbits w)] with
  | .ok (i, _) => some i
  | .error _ => none

/-- The word of an instruction: the fields of 30_encoding.md R93, its don't-care nibbles as the assembler writes them (R97). -/
def encode : Instr → Word
  | .cls => 0x00E0
  | .ret n => 0x00E#12 ++ n
  | .jp nnn => 0x1#4 ++ nnn
  | .call nnn => 0x2#4 ++ nnn
  | .seImm x nn => 0x3#4 ++ x ++ nn
  | .sneImm x nn => 0x4#4 ++ x ++ nn
  | .seReg x y => 0x5#4 ++ x ++ y ++ 0x0#4
  | .ldImm x nn => 0x6#4 ++ x ++ nn
  | .addImm x nn => 0x7#4 ++ x ++ nn
  | .ldReg x y => 0x8#4 ++ x ++ y ++ 0x0#4
  | .orReg x y => 0x8#4 ++ x ++ y ++ 0x1#4
  | .andReg x y => 0x8#4 ++ x ++ y ++ 0x2#4
  | .xorReg x y => 0x8#4 ++ x ++ y ++ 0x3#4
  | .addReg x y => 0x8#4 ++ x ++ y ++ 0x4#4
  | .subReg x y => 0x8#4 ++ x ++ y ++ 0x5#4
  | .shr x => 0x8#4 ++ x ++ 0x06#8
  | .subnReg x y => 0x8#4 ++ x ++ y ++ 0x7#4
  | .shre x => 0x8#4 ++ x ++ 0x0E#8
  | .sneReg x y => 0x9#4 ++ x ++ y ++ 0x0#4
  | .ldI nnn => 0xA#4 ++ nnn
  | .jpV0 nnn => 0xB#4 ++ nnn
  | .rnd x nn => 0xC#4 ++ x ++ nn
  | .drw x y n => 0xD#4 ++ x ++ y ++ n
  | .skp x => 0xE#4 ++ x ++ 0xA1#8
  | .sknp x => 0xE#4 ++ x ++ 0x9E#8
  | .ldB x => 0xF#4 ++ x ++ 0x33#8
  | .ld15 x => 0xF#4 ++ x ++ 0x15#8
  | .storeRegs x => 0xF#4 ++ x ++ 0x55#8
  | .loadRegs x => 0xF#4 ++ x ++ 0x65#8
  | .ldDt x => 0xF#4 ++ x ++ 0x07#8
  | .ldSt x => 0xF#4 ++ x ++ 0x18#8
  | .ldF x => 0xF#4 ++ x ++ 0x29#8
  | .ldK x => 0xF#4 ++ x ++ 0x0A#8
  | .addI x => 0xF#4 ++ x ++ 0x1E#8

/-- A row of the opcode table (30_encoding.md R93): the word selects it iff `op & mask = match` and its constraint holds. -/
structure OpcodeRow where
  mask : Word
  pattern : Word
  /-- The constraint N ≠ 0, which row 2 alone has. -/
  nNonzero : Bool
  /-- The instruction of a word that selects the row. -/
  build : Word → Instr

/-- `op & mask = match` and the row's constraint (30_encoding.md R93). -/
def OpcodeRow.selects (r : OpcodeRow) (op : Word) : Bool :=
  op &&& r.mask == r.pattern && (!r.nNonzero || fieldN op != 0)

/-- Rows 1 to 9 of 30_encoding.md R93. -/
def opcodeRows1 : List OpcodeRow :=
  [⟨0xF00F, 0x0000, false, fun _ => .cls⟩,
   ⟨0xF000, 0x0000, true, fun op => .ret (fieldN op)⟩,
   ⟨0xF000, 0x1000, false, fun op => .jp (fieldNNN op)⟩,
   ⟨0xF000, 0x2000, false, fun op => .call (fieldNNN op)⟩,
   ⟨0xF000, 0x3000, false, fun op => .seImm (fieldX op) (fieldNN op)⟩,
   ⟨0xF000, 0x4000, false, fun op => .sneImm (fieldX op) (fieldNN op)⟩,
   ⟨0xF000, 0x5000, false, fun op => .seReg (fieldX op) (fieldY op)⟩,
   ⟨0xF000, 0x6000, false, fun op => .ldImm (fieldX op) (fieldNN op)⟩,
   ⟨0xF000, 0x7000, false, fun op => .addImm (fieldX op) (fieldNN op)⟩]

/-- Rows 10 to 18 of 30_encoding.md R93. -/
def opcodeRows2 : List OpcodeRow :=
  [⟨0xF00F, 0x8000, false, fun op => .ldReg (fieldX op) (fieldY op)⟩,
   ⟨0xF00F, 0x8001, false, fun op => .orReg (fieldX op) (fieldY op)⟩,
   ⟨0xF00F, 0x8002, false, fun op => .andReg (fieldX op) (fieldY op)⟩,
   ⟨0xF00F, 0x8003, false, fun op => .xorReg (fieldX op) (fieldY op)⟩,
   ⟨0xF00F, 0x8004, false, fun op => .addReg (fieldX op) (fieldY op)⟩,
   ⟨0xF00F, 0x8005, false, fun op => .subReg (fieldX op) (fieldY op)⟩,
   ⟨0xF00F, 0x8006, false, fun op => .shr (fieldX op)⟩,
   ⟨0xF00F, 0x8007, false, fun op => .subnReg (fieldX op) (fieldY op)⟩,
   ⟨0xF00F, 0x800E, false, fun op => .shre (fieldX op)⟩]

/-- Rows 19 to 25 of 30_encoding.md R93. -/
def opcodeRows3 : List OpcodeRow :=
  [⟨0xF000, 0x9000, false, fun op => .sneReg (fieldX op) (fieldY op)⟩,
   ⟨0xF000, 0xA000, false, fun op => .ldI (fieldNNN op)⟩,
   ⟨0xF000, 0xB000, false, fun op => .jpV0 (fieldNNN op)⟩,
   ⟨0xF000, 0xC000, false, fun op => .rnd (fieldX op) (fieldNN op)⟩,
   ⟨0xF000, 0xD000, false, fun op => .drw (fieldX op) (fieldY op) (fieldN op)⟩,
   ⟨0xF00F, 0xE001, false, fun op => .skp (fieldX op)⟩,
   ⟨0xF00F, 0xE00E, false, fun op => .sknp (fieldX op)⟩]

/-- Rows 26 to 34 of 30_encoding.md R93. -/
def opcodeRows4 : List OpcodeRow :=
  [⟨0xF00F, 0xF003, false, fun op => .ldB (fieldX op)⟩,
   ⟨0xF0FF, 0xF015, false, fun op => .ld15 (fieldX op)⟩,
   ⟨0xF0FF, 0xF055, false, fun op => .storeRegs (fieldX op)⟩,
   ⟨0xF0FF, 0xF065, false, fun op => .loadRegs (fieldX op)⟩,
   ⟨0xF00F, 0xF007, false, fun op => .ldDt (fieldX op)⟩,
   ⟨0xF00F, 0xF008, false, fun op => .ldSt (fieldX op)⟩,
   ⟨0xF00F, 0xF009, false, fun op => .ldF (fieldX op)⟩,
   ⟨0xF00F, 0xF00A, false, fun op => .ldK (fieldX op)⟩,
   ⟨0xF00F, 0xF00E, false, fun op => .addI (fieldX op)⟩]

/-- The 34 rows of 30_encoding.md R93, in the table's order: the second form of the decoder, by mask and match. -/
def opcodeRows : List OpcodeRow := opcodeRows1 ++ opcodeRows2 ++ opcodeRows3 ++ opcodeRows4

end Sys2Proof
end

