-- ==== Sys2Proof/Config.lean ====
section
/-! DEFINITION. The fixed and the open parameters of the hardware (00_scope.md R7, R8), and the model's free inputs.

The open parameters are arguments of the model: a value of `Config.Params` is carried in State (log 1), so every
statement over states holds for all of them. The free inputs are constants without a body (logs 2 and 3). -/

namespace Sys2Proof

/-- Number of addressable bytes, addresses 0x000..0xFFF (00_scope.md R7; 10_state.md R33). -/
abbrev Config.memorySize : Nat := 4096

/-- Program load address and reset `pc` (00_scope.md R7; 10_state.md R41). -/
abbrev Config.loadAddress : Nat := 0x200

/-- Largest program image, 4096 - 0x200 bytes (00_scope.md R7; 70_reset_and_hazards.md R302). -/
abbrev Config.maxImage : Nat := 3584

/-- Size of the font table at 0x000..0x04F (00_scope.md R7; 20_memory.md R59). -/
abbrev Config.fontSize : Nat := 80

/-- Screen columns and rows (00_scope.md R7; 10_state.md R34). -/
abbrev Config.columns : Nat := 64
@[inherit_doc Config.columns] abbrev Config.rows : Nat := 32

/-- The parameters the source leaves open (00_scope.md R8). -/
structure Config.Params where
  /-- STACK_DEPTH, the most entries the call stack holds, at least 1. -/
  stackDepth     : Nat
  /-- TICKS_PER_SECOND, the resolution of the time input, at least 1. -/
  ticksPerSecond : Nat
  /-- FONT, the 80 bytes loaded at 0x000..0x04F on every reset. -/
  font           : Vector Byte Config.fontSize
  deriving DecidableEq, Repr

/-- The constraints of 00_scope.md R8 on the open parameters (FONT's 80 bytes are in its type). -/
abbrev Config.Params.wf (p : Config.Params) : Prop := 1 ≤ p.stackDepth ∧ 1 ≤ p.ticksPerSecond

/-- PRESUMED (log 1): the spec's suggested font, glyph `d` at `5 * d` (70_reset_and_hazards.md R304). -/
def Config.suggestedFont : Vector Byte Config.fontSize :=
  (#v[0xF0, 0x90, 0x90, 0x90, 0xF0, 0x20, 0x60, 0x20, 0x20, 0x70, 0xF0, 0x10, 0xF0, 0x80, 0xF0, 0xF0, 0x10, 0xF0, 0x10, 0xF0] : Vector Byte 20)
  ++ (#v[0x90, 0x90, 0xF0, 0x10, 0x10, 0xF0, 0x80, 0xF0, 0x10, 0xF0, 0xF0, 0x80, 0xF0, 0x90, 0xF0, 0xF0, 0x10, 0x20, 0x40, 0x40] : Vector Byte 20)
  ++ (#v[0xF0, 0x90, 0xF0, 0x90, 0xF0, 0xF0, 0x90, 0xF0, 0x10, 0xF0, 0xF0, 0x90, 0xF0, 0x90, 0x90, 0xE0, 0x90, 0xE0, 0x90, 0xE0] : Vector Byte 20)
  ++ (#v[0xF0, 0x80, 0x80, 0x80, 0xF0, 0xE0, 0x90, 0x90, 0x90, 0xE0, 0xF0, 0x80, 0xF0, 0x80, 0xF0, 0xF0, 0x80, 0xF0, 0x80, 0x80] : Vector Byte 20)

/-- PRESUMED / DESIGN CHOICE (log 1): the spec's suggested parameter values (00_scope.md R8). -/
def Config.suggestedParams : Config.Params :=
  { stackDepth := 16, ticksPerSecond := 1000, font := Config.suggestedFont }

/-- Free value (log 2): the random byte of the `n`-th free-running step. It has no law (10_state.md R45). -/
opaque Config.freeRandom : Nat → Byte

/-- Free value (log 3): how many ticks pass before the `n`-th free-running step. A natural number, so the time
input is monotone, the host's duty of 10_state.md R44. -/
opaque Config.freeElapsed : Nat → Nat

end Sys2Proof
end

