-- ==== Sys2Proof/Machine/State.lean ====
section
/-! DEFINITION. The state of the machine as plain data (10_state.md), its reset value and the reasons a step can stop. -/

namespace Sys2Proof.Machine

/-- Memory: the cells whose byte differs from what an unlisted address reads as (`unlistedByte` in Ops.lean: the reset
contents), addresses strictly rising (`Memory.wf`). 10_state.md R33; log 7. -/
abbrev Memory := List Host.Cell

/-- The screen, `screen[y][x]`: 32 rows of 64 one-bit pixels, true is on (10_state.md R34). -/
abbrev Screen := Vector (Vector Bool Config.columns) Config.rows

/-- The input lock (10_state.md R32). -/
structure InputLock where
  active : Bool
  target : RegIdx
  deriving DecidableEq, Repr

/-- The causes of an ExecutionFault (60_exceptions.md R262). -/
inductive FaultCause where
  | fetchOutOfRange
  | dataOutOfRange
  | keyIndexOutOfRange
  | stackOverflow
  deriving DecidableEq, Repr

/-- The fault status register, which records the first ExecutionFault (10_state.md R36). -/
structure FaultRecord where
  valid  : Bool
  cause  : BitVec 3
  pc     : Word
  opcode : Word
  value  : Word
  deriving DecidableEq, Repr

/-- The fault status register with every field 0, as reset leaves it (10_state.md R36). -/
def FaultRecord.clear : FaultRecord := { valid := false, cause := 0, pc := 0, opcode := 0, value := 0 }

/-- The run state, a function of the state and no register (10_state.md R37). -/
inductive RunState where
  | running
  | awaitingKey
  | faulted
  deriving DecidableEq, Repr

/-- The host's transactions (10_state.md R46), with their inputs. -/
inductive Transaction where
  | construct (now : Nat)
  | reset (now : Nat)
  | loadProgram (bytes : List Byte) (now : Nat)
  | step (now : Nat) (rnd : Byte)
  | pressKey (k : Nibble)
  | releaseKey (k : Nibble)
  | getScreen
  | getFault
  deriving DecidableEq, Repr

/-- What the block gives the host (10_state.md R49; 60_exceptions.md R271, R284). -/
inductive Output where
  /-- `Diagnostic(UNKNOWN_OPCODE, pc, op)` on the diagnostic channel (60_exceptions.md R271). -/
  | unknownOpcode (pc op : Word)
  /-- `load_program` answered ok (70_reset_and_hazards.md R302). -/
  | loaded
  /-- `load_program` answered InvalidProgram (60_exceptions.md R268). -/
  | invalidProgram
  /-- `get_screen` answered these 2048 pixels in row-major order (10_state.md R48). -/
  | screen (pixels : List Bool)
  /-- `get_fault` answered this record (60_exceptions.md R263). -/
  | faultStatus (record : FaultRecord)
  deriving DecidableEq, Repr

/-- All the state of the block (10_state.md R20 to R36); below the line, the model's own fields (logs 1 to 6). -/
structure State where
  /-- x[0..15], V0..VF (10_state.md R20). -/
  regs     : Vector Byte 16
  /-- I (10_state.md R27). -/
  index    : Word
  /-- The address of the instruction in execution, or of the next one (10_state.md R23). -/
  pc       : Word
  /-- The call stack, the most recently pushed value first (10_state.md R28). -/
  stack    : List Word
  /-- DT (10_state.md R29). -/
  dt       : Byte
  /-- ST (10_state.md R30). -/
  st       : Byte
  /-- keys[0..15], true is pressed (10_state.md R31). -/
  keys     : Vector Bool 16
  /-- The input lock (10_state.md R32). -/
  lock     : InputLock
  /-- The 4096 bytes of memory (10_state.md R33). -/
  mem      : Memory
  /-- The framebuffer (10_state.md R34). -/
  screen   : Screen
  /-- The time of the last timer decay (10_state.md R35). -/
  lastTick : Nat
  /-- The fault status register (10_state.md R36). -/
  fault    : FaultRecord
  -- The model's own fields.
  /-- The open parameters of this machine; no transition writes them (00_scope.md R8; log 1). -/
  params   : Config.Params
  /-- The time input as last sampled (10_state.md R44; log 3). -/
  now      : Nat
  /-- The random input of the step in execution (10_state.md R45; log 2). -/
  rnd      : Byte
  /-- How many free-running steps have drawn their inputs (logs 2 and 3). -/
  draws    : Nat
  /-- The host's transactions still to come, oldest first (log 4). -/
  schedule : List Transaction
  /-- What the block has given the host, newest first (log 6). -/
  outputs  : List Output
  deriving DecidableEq, Repr

/-- Why the machine stops. Only one thing stops it, and no instruction does. -/
inductive Fault where
  /-- Raised by a scheduled construct, reset, load_program or step whose time input is less than an earlier one: the host's
  duty of 10_state.md R44 is broken and the spec gives the machine no move (93_implementation_defined.md U15). Safe (log 5). -/
  | timeRanBackwards
  deriving DecidableEq, Repr

/-- Why an instruction is refused. -/
inductive Refusal where
  /-- Raised by `exec` for an instruction that has no meaning yet; none is left. Safe. -/
  | notModelled (mnemonic : String)
  deriving DecidableEq, Repr

/-- The outcome of a meaning or of a step. -/
abbrev Result := Host.Outcome State Fault Refusal

/-- The machine right after construction or reset at time `now`, with the open parameters `p` (10_state.md R41;
70_reset_and_hazards.md R301): nothing listed in memory, which then reads as FONT and zeros. The model's own input
fields are as log 8 says. -/
def State.resetWith (p : Config.Params) (now : Nat) : State :=
  { regs := Vector.replicate 16 0
    index := 0
    pc := BitVec.ofNat 16 Config.loadAddress
    stack := []
    dt := 0
    st := 0
    keys := Vector.replicate 16 false
    lock := { active := false, target := 0 }
    mem := []
    screen := Vector.replicate Config.rows (Vector.replicate Config.columns false)
    lastTick := now
    fault := FaultRecord.clear
    params := p
    now := now
    rnd := 0
    draws := 0
    schedule := []
    outputs := [] }

/-- The machine right after reset: `resetWith` at the spec's suggested parameters (log 1) and time 0 (log 8). -/
def State.reset : State := State.resetWith Config.suggestedParams 0

end Sys2Proof.Machine
end

