-- ==== Sys2Proof/Machine/Ops.lean ====
section
/-! DEFINITION. The named operations every meaning is written over: one update per field, registers, memory, the range
check, the call stack, raising an ExecutionFault, the universal advance and the skip. -/

namespace Sys2Proof.Machine

/-! ### One update per field -/

/-- `pc <- v` -/
def State.setPc (s : State) (v : Word) : State := { s with pc := v }

/-- `I <- v` -/
def State.setIndex (s : State) (v : Word) : State := { s with index := v }

/-- The call stack replaced whole. -/
def State.setStack (s : State) (v : List Word) : State := { s with stack := v }

/-- `ST <- v` -/
def State.setSt (s : State) (v : Byte) : State := { s with st := v }

/-- The keys replaced whole. -/
def State.setKeys (s : State) (v : Vector Bool 16) : State := { s with keys := v }

/-- The input lock replaced whole. -/
def State.setLock (s : State) (v : InputLock) : State := { s with lock := v }

/-- Memory replaced whole. -/
def State.setMem (s : State) (v : Memory) : State := { s with mem := v }

/-- The screen replaced whole. -/
def State.setScreen (s : State) (v : Screen) : State := { s with screen := v }

/-- The fault status register replaced whole. -/
def State.setFault (s : State) (v : FaultRecord) : State := { s with fault := v }

/-- The three fields of the timer decay engine. -/
def State.setTimers (s : State) (dt st : Byte) (lastTick : Nat) : State :=
  { s with dt := dt, st := st, lastTick := lastTick }

/-- The inputs of a step are sampled (10_state.md R44, R45). -/
def State.latch (s : State) (now : Nat) (rnd : Byte) : State := { s with now := now, rnd := rnd }

/-- One more free-running step has drawn its inputs (logs 2 and 3). -/
def State.countDraw (s : State) : State := { s with draws := s.draws + 1 }

/-- The transactions still to come (log 4). -/
def State.setSchedule (s : State) (v : List Transaction) : State := { s with schedule := v }

/-- The block gives the host an output (60_exceptions.md R271, R284). -/
def State.emit (s : State) (o : Output) : State := { s with outputs := o :: s.outputs }

/-! ### The general registers (10_state.md R20): none is hard-wired -/

/-- `x[i]` -/
def State.v (s : State) (i : RegIdx) : Byte := s.regs[i.toNat]'i.isLt

/-- `x[i] <- b` -/
def State.setV (s : State) (i : RegIdx) (b : Byte) : State :=
  { s with regs := s.regs.set i.toNat b i.isLt }

/-- A result and then VF: VX is written first and VF last, so the flag wins when X = F (43_alu.md R170, decision D7). -/
def State.setResultAndFlag (s : State) (x : RegIdx) (result flag : Byte) : State :=
  (s.setV x result).setV vf flag

/-! ### Memory (20_memory.md) -/

/-- What an unlisted address reads as: the reset contents, FONT at 0x000..0x04F and 0 elsewhere (20_memory.md R59; log 7). -/
def unlistedByte (font : Vector Byte Config.fontSize) (a : Nat) : Byte :=
  if h : a < Config.fontSize then font[a] else 0

/-- The byte a memory holds at `a`. -/
def Memory.read (font : Vector Byte Config.fontSize) : Memory → Nat → Byte
  | [], a => unlistedByte font a
  | (b, v) :: rest, a => if b = a then v else Memory.read font rest a

/-- The cell list with `a` listed as `v`, addresses kept rising. -/
def Memory.put (a : Nat) (v : Byte) : Memory → Memory
  | [] => [(a, v)]
  | (b, w) :: rest =>
    if a < b then (a, v) :: (b, w) :: rest
    else if b = a then (a, v) :: rest
    else (b, w) :: Memory.put a v rest

/-- The cell list with `a` unlisted. -/
def Memory.erase (a : Nat) (m : Memory) : Memory := m.filter fun c => c.1 != a

/-- `mem[a] <- v`, kept canonical: writing the byte an unlisted address reads as removes the entry. No address outside the
4096 exists (20_memory.md R50); every caller checks the range first (R55), so nothing is written there (log 17). -/
def Memory.write (font : Vector Byte Config.fontSize) (a : Nat) (v : Byte) (m : Memory) : Memory :=
  if a < Config.memorySize then
    if v = unlistedByte font a then Memory.erase a m else Memory.put a v m
  else m

/-- The canonical form: addresses strictly rising and inside memory, no entry equal to what an unlisted address reads as. -/
abbrev Memory.wf (font : Vector Byte Config.fontSize) (m : Memory) : Prop :=
  m.Pairwise (fun c d => c.1 < d.1) ∧ ∀ c ∈ m, c.1 < Config.memorySize ∧ c.2 ≠ unlistedByte font c.1

/-- Bytes written to ascending addresses from `a` (20_memory.md R53). -/
def Memory.writeBytes (font : Vector Byte Config.fontSize) : Nat → List Byte → Memory → Memory
  | _, [], m => m
  | a, b :: bs, m => Memory.writeBytes font (a + 1) bs (Memory.write font a b m)

/-- `MemRead(a, 1)` (10_state.md R33). -/
def State.readByte (s : State) (a : Nat) : Byte := Memory.read s.params.font s.mem a

/-- The `n` bytes from `a` on, by ascending address (20_memory.md R53). -/
def State.readBytes (s : State) (a n : Nat) : List Byte := (List.range n).map fun k => s.readByte (a + k)

/-- `MemWrite(a + k, 1, bytes[k])` for each `k` in ascending order (20_memory.md R53). -/
def State.writeBytes (s : State) (a : Nat) (bytes : List Byte) : State :=
  s.setMem (Memory.writeBytes s.params.font a bytes s.mem)

/-- `in_range(a, n)` (20_memory.md R55), on naturals without wrap. -/
def inRange (a n : Nat) : Bool := n == 0 || a + n - 1 ≤ 0xFFF

/-- The word at `pc`, big-endian (20_memory.md R52; 40_execution_cycle.md R114). -/
def State.opcodeAt (s : State) : Word :=
  wordOfBytes (s.readByte s.pc.toNat) (s.readByte (s.pc.toNat + 1))

/-! ### ExecutionFault: the one exception (60_exceptions.md R261 to R264) -/

/-- The cause codes (60_exceptions.md R262). -/
def FaultCause.code : FaultCause → BitVec 3
  | .fetchOutOfRange => 1
  | .dataOutOfRange => 2
  | .keyIndexOutOfRange => 3
  | .stackOverflow => 4

/-- `raise ExecutionFault(cause, value)`: no write of the instruction, no advance, and the record of 60_exceptions.md R263
(the opcode is 0 when none was fetched, else the word at `pc`, log 10). Nothing returns from it (R272): the machine is
FAULTED until a reset. -/
def State.raiseFault (s : State) (cause : FaultCause) (value : Word) : State :=
  s.setFault
    { valid := true
      cause := cause.code
      pc := s.pc
      opcode := if cause = .fetchOutOfRange then 0 else s.opcodeAt
      value := value }

/-- `check_data(I, n)` (20_memory.md R55), before any write: the rest of the instruction if the range is in memory. -/
def State.checkData (s : State) (n : Nat) (rest : State → State) : State :=
  if inRange s.index.toNat n then rest s else s.raiseFault .dataOutOfRange s.index

/-- The key index check of SKP and SKNP (42_skips.md R157), before any write. -/
def State.checkKey (s : State) (k : Byte) (rest : Nibble → State) : State :=
  if 15 < k.toNat then s.raiseFault .keyIndexOutOfRange (k.setWidth 16) else rest (k.setWidth 4)

/-! ### Program counter and call stack -/

/-- The universal advance `pc <- trunc_16(pc + 2)` (40_execution_cycle.md R115). -/
def State.advance (s : State) : State := s.setPc (s.pc + 2)

/-- `pc <- trunc_16(t - 2)`, so that the step ends at `t` (40_execution_cycle.md R116). -/
def State.jumpTo (s : State) (t : Word) : State := s.setPc (t - 2)

/-- `skip_if(c)` (42_skips.md R150). -/
def State.skipIf (s : State) (c : Bool) : State := if c then s.setPc (s.pc + 2) else s

/-- `push(v)` after the check for a full stack (41_control_transfer.md R132); `fault.value` has 16 bits (log 12). -/
def State.checkPush (s : State) (v : Word) (rest : State → State) : State :=
  if s.stack.length = s.params.stackDepth then
    s.raiseFault .stackOverflow (BitVec.ofNat 16 s.stack.length)
  else rest (s.setStack (v :: s.stack))

/-! ### Keys and run state -/

/-- `keys[k]` -/
def State.key (s : State) (k : Nibble) : Bool := s.keys[k.toNat]'k.isLt

/-- `keys[k] <- b` -/
def State.setKey (s : State) (k : Nibble) (b : Bool) : State := s.setKeys (s.keys.set k.toNat b k.isLt)

/-- The run state (10_state.md R37). -/
def State.runState (s : State) : RunState :=
  if s.fault.valid then .faulted else if s.lock.active then .awaitingKey else .running

end Sys2Proof.Machine
end

