-- ==== Sys2Proof/Machine/Flags.lean ====
section
/-! DEFINITION. What each instruction that reports an outcome puts into VF (10_state.md R26; 43_alu.md R183).

`a` is VX and `b` is VY before the instruction. DRW's collision is in Display.lean. -/

namespace Sys2Proof.Machine

/-- A Boolean as a number: 1 for true and 0 for false (00_scope.md R11). -/
def flagByte (b : Bool) : Byte := if b then 1 else 0

/-- ADD: 1 iff the wrapped sum is less than either operand, the carry (43_alu.md R177). -/
def carryFlag (a b : Byte) : Bool := a + b < a || a + b < b

/-- SUB: 1 iff the wrapped difference is less than the original X; neither the borrow nor its complement
(43_alu.md R178; 90_conflicts.md C2). -/
def subFlag (a b : Byte) : Bool := a - b < a

/-- SUBN: 1 iff Y > X, strictly (43_alu.md R180). -/
def subnFlag (a b : Byte) : Bool := a < b

/-- SHR and SHRE: the bit shifted out, bit 0 of the original X (43_alu.md R179, R181; 90_conflicts.md C3). -/
def shiftedOut (a : Byte) : Byte := a &&& 1

end Sys2Proof.Machine
end

