-- ==== Sys2Proof/Machine/Alu.lean ====
section
/-! DEFINITION. Register and ALU instructions (43_alu.md): unsigned 8-bit arithmetic that wraps, operands read before any
write (00_scope.md R13), VX written before VF (R170). -/

namespace Sys2Proof.Machine

/-- LD Vx, NN (43_alu.md R171). -/
def execLdImm (x : RegIdx) (nn : Byte) (s : State) : Result := .next (s.setV x nn).advance

/-- ADD Vx, NN (43_alu.md R172): no flag. -/
def execAddImm (x : RegIdx) (nn : Byte) (s : State) : Result := .next (s.setV x (s.v x + nn)).advance

/-- LD Vx, Vy (43_alu.md R173). -/
def execLdReg (x y : RegIdx) (s : State) : Result := .next (s.setV x (s.v y)).advance

/-- OR Vx, Vy (43_alu.md R174). -/
def execOrReg (x y : RegIdx) (s : State) : Result := .next (s.setV x (s.v x ||| s.v y)).advance

/-- AND Vx, Vy (43_alu.md R175). -/
def execAndReg (x y : RegIdx) (s : State) : Result := .next (s.setV x (s.v x &&& s.v y)).advance

/-- XOR Vx, Vy (43_alu.md R176). -/
def execXorReg (x y : RegIdx) (s : State) : Result := .next (s.setV x (s.v x ^^^ s.v y)).advance

/-- ADD Vx, Vy (43_alu.md R177). -/
def execAddReg (x y : RegIdx) (s : State) : Result :=
  .next (s.setResultAndFlag x (s.v x + s.v y) (flagByte (carryFlag (s.v x) (s.v y)))).advance

/-- SUB Vx, Vy (43_alu.md R178). -/
def execSubReg (x y : RegIdx) (s : State) : Result :=
  .next (s.setResultAndFlag x (s.v x - s.v y) (flagByte (subFlag (s.v x) (s.v y)))).advance

/-- SHR Vx (43_alu.md R179). -/
def execShr (x : RegIdx) (s : State) : Result :=
  .next (s.setResultAndFlag x (s.v x >>> 1) (shiftedOut (s.v x))).advance

/-- SUBN Vx, Vy (43_alu.md R180). -/
def execSubnReg (x y : RegIdx) (s : State) : Result :=
  .next (s.setResultAndFlag x (s.v y - s.v x) (flagByte (subnFlag (s.v x) (s.v y)))).advance

/-- SHRE Vx (43_alu.md R181): a right shift, as the behaviour table says (90_conflicts.md C3). -/
def execShre (x : RegIdx) (s : State) : Result :=
  .next (s.setResultAndFlag x (s.v x >>> 1) (shiftedOut (s.v x))).advance

/-- RND Vx, NN (43_alu.md R182): the step's random input, a free byte (10_state.md R45; log 2). -/
def execRnd (x : RegIdx) (nn : Byte) (s : State) : Result := .next (s.setV x (s.rnd &&& nn)).advance

end Sys2Proof.Machine
end

