-- ==== Sys2Proof/Machine/Operands.lean ====
section
/-! DEFINITION. The effective-address forms of the hardware, exactly the five of 44_index_memory.md R206. -/

namespace Sys2Proof.Machine

/-- (a) Register indirect through `I` with an implicit ascending offset: `I + k`, an exact natural (20_memory.md R50). -/
def State.dataAddress (s : State) (k : Nat) : Nat := s.index.toNat + k

/-- (b) Immediate absolute: NNN zero-extended to 16 bits (30_encoding.md R83). -/
def absolute (nnn : Imm12) : Word := nnn.setWidth 16

/-- (c) Immediate plus V0, formed in 16 bits and not reduced to 12 (41_control_transfer.md R133). -/
def State.offsetByV0 (s : State) (nnn : Imm12) : Word := nnn.setWidth 16 + (s.v 0).setWidth 16

/-- (d) Scaled register: `VX * 5`, a glyph's address (44_index_memory.md R202). -/
def State.glyphAddress (s : State) (x : RegIdx) : Word := (s.v x).setWidth 16 * 5

/-- (e) `I` plus a register, modulo 2^16 (44_index_memory.md R201). -/
def State.indexPlus (s : State) (x : RegIdx) : Word := s.index + (s.v x).setWidth 16

/-- V0..VX, the operands of LD [I], Vx (44_index_memory.md R204). -/
def State.lowRegs (s : State) (x : RegIdx) : List Byte := s.regs.toList.take (x.toNat + 1)

/-- The three decimal digits of a byte, most significant first (44_index_memory.md R203). -/
def decimalDigits (b : Byte) : List Byte := [b / 100, b / 10 % 10, b % 10]

end Sys2Proof.Machine
end

