-- ==== Sys2Proof/Machine/Control.lean ====
section
/-! DEFINITION. Control transfer: RET, JP, CALL, JP V0 (41_control_transfer.md). Each meaning ends with the universal
advance unless it faults (40_execution_cycle.md R115, R119). -/

namespace Sys2Proof.Machine

/-- RET (41_control_transfer.md R130): the step ends at the popped value; an empty stack is no fault. -/
def execRet (s : State) : Result :=
  match s.stack with
  | [] => .next s.advance
  | a :: rest => .next ((s.setStack rest).jumpTo a).advance

/-- JP NNN (41_control_transfer.md R131). -/
def execJp (nnn : Imm12) (s : State) : Result := .next (s.jumpTo (absolute nnn)).advance

/-- CALL NNN (41_control_transfer.md R132): pushes the address of this CALL, then jumps. -/
def execCall (nnn : Imm12) (s : State) : Result :=
  .next (s.checkPush s.pc fun t => (t.jumpTo (absolute nnn)).advance)

/-- JP V0, NNN (41_control_transfer.md R133). -/
def execJpV0 (nnn : Imm12) (s : State) : Result := .next (s.jumpTo (s.offsetByV0 nnn)).advance

end Sys2Proof.Machine
end

