-- ==== Sys2Proof/Machine/Display.lean ====
section
/-! DEFINITION. The framebuffer controller, exactly its three operations CLEAR, XOR-DRAW and SNAPSHOT, and the display
instructions CLS and DRW (46_display.md R240 to R245). -/

namespace Sys2Proof.Machine

/-- Pixel (x, y): column `x` modulo 64, row `y` modulo 32, wrap-around on both axes (10_state.md R34; 46_display.md R240). -/
def Screen.pixel (sc : Screen) (x y : Nat) : Bool :=
  (sc[y % Config.rows]'(Nat.mod_lt _ (by decide)))[x % Config.columns]'(Nat.mod_lt _ (by decide))

/-- The screen with pixel (x, y) complemented. -/
def Screen.toggle (sc : Screen) (x y : Nat) : Screen :=
  sc.set (y % Config.rows)
    ((sc[y % Config.rows]'(Nat.mod_lt _ (by decide))).set (x % Config.columns) (!sc.pixel x y) (Nat.mod_lt _ (by decide)))
    (Nat.mod_lt _ (by decide))

/-- CLEAR: every pixel off (46_display.md R240). -/
def Screen.blank : Screen := Vector.replicate Config.rows (Vector.replicate Config.columns false)

/-- SNAPSHOT: the 2048 pixels in row-major order (10_state.md R48; 46_display.md R245). -/
def Screen.snapshot (sc : Screen) : List Bool := sc.toList.flatMap fun row => row.toList

/-- A screen being drawn on, and whether a pixel that was on has been turned off so far. -/
structure DrawState where
  screen    : Screen
  collision : Bool
  deriving DecidableEq, Repr

/-- One column of one sprite row: bit 7 is column offset 0, the leftmost (46_display.md R242, decision D5). -/
def drawColumn (byte : Byte) (px py : Nat) (d : DrawState) (col : Nat) : DrawState :=
  if byte.getLsbD (7 - col) then
    { screen := d.screen.toggle (px + col) py, collision := d.collision || d.screen.pixel (px + col) py }
  else d

/-- One sprite row: its 8 columns from the left (46_display.md R242). -/
def drawRow (byte : Byte) (px py : Nat) (d : DrawState) : DrawState :=
  (List.range 8).foldl (drawColumn byte px py) d

/-- XOR-DRAW: the sprite's rows downwards from row `py` (46_display.md R242). -/
def drawSprite (px : Nat) : Nat → List Byte → DrawState → DrawState
  | _, [], d => d
  | py, byte :: rest, d => drawSprite px (py + 1) rest (drawRow byte px py d)

/-- CLS (46_display.md R241). -/
def execCls (s : State) : Result := .next (s.setScreen Screen.blank).advance

/-- The screen and collision DRW ends with: VX and VY are read first, then N bytes from `I` (46_display.md R242, decisions
D4 and D6). -/
def State.drawn (s : State) (x y : RegIdx) (n : Nibble) : DrawState :=
  drawSprite (s.v x).toNat (s.v y).toNat (s.readBytes (s.dataAddress 0) n.toNat)
    { screen := s.screen, collision := false }

/-- DRW Vx, Vy, N (46_display.md R242): VF ends as the collision (R243). Its reset to 0 at the start of the draw is not seen
by anything, so it is not written separately (log 18). -/
def execDrw (x y : RegIdx) (n : Nibble) (s : State) : Result :=
  .next (s.checkData n.toNat fun t =>
    ((t.setScreen (t.drawn x y n).screen).setV vf (flagByte (t.drawn x y n).collision)).advance)

end Sys2Proof.Machine
end

