-- ==== Sys2Proof/Machine/IndexMemory.lean ====
section
/-! DEFINITION. Index register and memory instructions (44_index_memory.md). None changes its base `I` (R206). -/

namespace Sys2Proof.Machine

/-- LD I, NNN (44_index_memory.md R200). -/
def execLdI (nnn : Imm12) (s : State) : Result := .next (s.setIndex (absolute nnn)).advance

/-- ADD I, Vx (44_index_memory.md R201): wraps modulo 2^16, no flag. -/
def execAddI (x : RegIdx) (s : State) : Result := .next (s.setIndex (s.indexPlus x)).advance

/-- LD F, Vx (44_index_memory.md R202). -/
def execLdF (x : RegIdx) (s : State) : Result := .next (s.setIndex (s.glyphAddress x)).advance

/-- LD B, Vx (44_index_memory.md R203). -/
def execLdB (x : RegIdx) (s : State) : Result :=
  .next (s.checkData 3 fun t => (t.writeBytes (t.dataAddress 0) (decimalDigits (t.v x))).advance)

/-- LD [I], Vx (44_index_memory.md R204): V0..VX to `I .. I + X`. -/
def execStoreRegs (x : RegIdx) (s : State) : Result :=
  .next (s.checkData (x.toNat + 1) fun t => (t.writeBytes (t.dataAddress 0) (t.lowRegs x)).advance)

/-- `x[i] <- MemRead(I + i, 1)` for i in 0..X (44_index_memory.md R205). -/
def State.loadLowRegs (s : State) (x : RegIdx) : State :=
  { s with regs := s.regs.mapIdx fun i b => if i ≤ x.toNat then s.readByte (s.dataAddress i) else b }

/-- LD Vx, [I] (44_index_memory.md R205). -/
def execLoadRegs (x : RegIdx) (s : State) : Result :=
  .next (s.checkData (x.toNat + 1) fun t => (t.loadLowRegs x).advance)

end Sys2Proof.Machine
end

