-- ==== Sys2Proof/Machine/Skips.lean ====
section
/-! DEFINITION. Conditional skips (42_skips.md). A taken skip ends at `pc + 4`, an untaken one at `pc + 2` (R150). -/

namespace Sys2Proof.Machine

/-- SE Vx, NN (42_skips.md R151). -/
def execSeImm (x : RegIdx) (nn : Byte) (s : State) : Result := .next (s.skipIf (s.v x == nn)).advance

/-- SNE Vx, NN (42_skips.md R152). -/
def execSneImm (x : RegIdx) (nn : Byte) (s : State) : Result := .next (s.skipIf (s.v x != nn)).advance

/-- SE Vx, Vy (42_skips.md R153). -/
def execSeReg (x y : RegIdx) (s : State) : Result := .next (s.skipIf (s.v x == s.v y)).advance

/-- SNE Vx, Vy (42_skips.md R154). -/
def execSneReg (x y : RegIdx) (s : State) : Result := .next (s.skipIf (s.v x != s.v y)).advance

/-- SKP Vx (42_skips.md R155): skip if the key VX names is pressed. -/
def execSkp (x : RegIdx) (s : State) : Result :=
  .next (s.checkKey (s.v x) fun k => (s.skipIf (s.key k)).advance)

/-- SKNP Vx (42_skips.md R156): skip if the key VX names is not pressed. -/
def execSknp (x : RegIdx) (s : State) : Result :=
  .next (s.checkKey (s.v x) fun k => (s.skipIf (!s.key k)).advance)

end Sys2Proof.Machine
end

