-- ==== Sys2Proof/Machine/TimersInput.lean ====
section
/-! DEFINITION. Timer and input instructions (45_timers_input.md) and the timer decay engine (60_exceptions.md R276). -/

namespace Sys2Proof.Machine

/-- LD Vx, DT (45_timers_input.md R220). -/
def execLdDt (x : RegIdx) (s : State) : Result := .next (s.setV x s.dt).advance

/-- LD15 Vx, DT (45_timers_input.md R221): a second encoding of the read; DT is not written. -/
def execLd15 (x : RegIdx) (s : State) : Result := .next (s.setV x s.dt).advance

/-- LD ST, Vx (45_timers_input.md R222). -/
def execLdSt (x : RegIdx) (s : State) : Result := .next (s.setSt (s.v x)).advance

/-- LD Vx, K (45_timers_input.md R223): sets the input lock and still completes its advance; VX is written by the
`press_key` that resolves the lock (R224). -/
def execLdK (x : RegIdx) (s : State) : Result := .next (s.setLock { active := true, target := x }).advance

/-- Whole seconds elapsed since the last decay (60_exceptions.md R276). -/
def State.elapsedSeconds (s : State) (now : Nat) : Nat := (now - s.lastTick) / s.params.ticksPerSecond

/-- A timer after `e` whole seconds (60_exceptions.md R276): floored at zero; forced to zero when `e` is implausibly large. -/
def decayed (e : Nat) (t : Byte) : Byte :=
  if 1 ≤ e then (if 255 < e then 0 else BitVec.ofNat 8 (t.toNat - e)) else t

/-- `timer_decay(now)` (60_exceptions.md R276): `last_tick` moves only when a whole second has elapsed, and then to `now`. -/
def State.timerDecay (s : State) (now : Nat) : State :=
  s.setTimers (decayed (s.elapsedSeconds now) s.dt) (decayed (s.elapsedSeconds now) s.st)
    (if 1 ≤ s.elapsedSeconds now then now else s.lastTick)

end Sys2Proof.Machine
end

