-- ==== Sys2Proof/Machine/Cycle.lean ====
section
/-! DEFINITION. The execution cycle (40_execution_cycle.md R111) and the placing of a word where it fetches. -/

namespace Sys2Proof.Machine

/-- The unknown opcode (40_execution_cycle.md R118; 60_exceptions.md R266, R271): one diagnostic event and the universal
advance, no architectural write. -/
def State.unknownOpcode (s : State) (op : Word) : State := (s.emit (.unknownOpcode s.pc op)).advance

/-- The execution part of a RUNNING step: the fetch with its range check (40_execution_cycle.md R114), then the decoded
instruction or the unknown opcode (R117, R118). -/
def executionPart (s : State) : Result :=
  if inRange s.pc.toNat 2 then
    match decode s.opcodeAt with
    | .ok i => exec i s
    | .error _ => .next (s.unknownOpcode s.opcodeAt)
  else .next (s.raiseFault .fetchOutOfRange s.pc)

/-- The execution part of a step in each run state: a FAULTED or AWAITING_KEY machine executes nothing
(40_execution_cycle.md R112, R113). -/
def guardedPart (s : State) : Result :=
  match s.runState with
  | .faulted => .next s
  | .awaitingKey => .next s
  | .running => executionPart s

/-- The next state passed on to `f`; a stop stays as it is. -/
def thenNext (r : Result) (f : State → State) : Result :=
  match r with
  | .next t => .next (f t)
  | .fault e => .fault e
  | .refused e => .refused e

/-- `step(now, rnd)` (40_execution_cycle.md R111): the inputs are sampled, at most one instruction executes, and the timer
decay runs after it in every step (R120; 60_exceptions.md R275). -/
def stepTransaction (now : Nat) (rnd : Byte) (s : State) : Result :=
  thenNext (guardedPart (s.latch now rnd)) fun t => t.timerDecay now

/-- Whether the very next transaction is a step the machine has a move for: nothing is scheduled, or a step is. -/
def State.stepIsNext (s : State) : Bool :=
  match s.schedule with
  | [] => true
  | .step now _ :: _ => s.now ≤ now
  | .construct _ :: _ => false
  | .reset _ :: _ => false
  | .loadProgram _ _ :: _ => false
  | .pressKey _ :: _ => false
  | .releaseKey _ :: _ => false
  | .getScreen :: _ => false
  | .getFault :: _ => false

/-- The address the next instruction is fetched from, 0x200 when `pc` addresses no fetchable word. -/
def State.fetchAddress (s : State) : Word :=
  if inRange s.pc.toNat 2 then s.pc else BitVec.ofNat 16 Config.loadAddress

/-- `s` with `op` stored, high byte first, where the next step fetches, and with all the fetch needs: the machine RUNNING, a
fetchable `pc`, and a step as its next transaction (log 14). -/
def State.placeOpcode (s : State) (op : Word) : State :=
  ((((s.setPc s.fetchAddress).setLock { s.lock with active := false }).setFault FaultRecord.clear).setSchedule
    (if s.stepIsNext then s.schedule else [])).writeBytes s.fetchAddress.toNat [highByte op, lowByte op]

end Sys2Proof.Machine
end

