-- ==== Sys2Proof/Machine/Transactions.lean ====
section
/-! DEFINITION. The host's transactions (10_state.md R46; 60_exceptions.md R284), each atomic and between steps. -/

namespace Sys2Proof.Machine

/-- `reset(now)` (70_reset_and_hazards.md R301), also what construction does (R300; log 15): every piece of the block's state
at its reset value. The parameters are kept, and so are the model's own schedule, outputs, counter and random input. -/
def State.hostReset (s : State) (now : Nat) : State :=
  { State.resetWith s.params now with
    rnd := s.rnd, draws := s.draws, schedule := s.schedule, outputs := s.outputs }

/-- The loaded machine of `load_program(bytes)` (70_reset_and_hazards.md R302): a reset, then the image from 0x200. -/
def State.hostLoad (s : State) (bytes : List Byte) (now : Nat) : State :=
  (s.hostReset now).writeBytes Config.loadAddress bytes

/-- `press_key(k)` (45_timers_input.md R224): key down, and an active lock resolved, in every run state. -/
def State.pressKey (s : State) (k : Nibble) : State :=
  if s.lock.active then
    ((s.setKey k true).setV s.lock.target (k.setWidth 8)).setLock { s.lock with active := false }
  else s.setKey k true

/-- `release_key(k)` (45_timers_input.md R225): key up, no other effect. -/
def State.releaseKey (s : State) (k : Nibble) : State := s.setKey k false

/-- A transaction that samples the time: the machine has no move when `now` is less than an earlier one (10_state.md R44;
93_implementation_defined.md U15; log 5). -/
def atTime (now : Nat) (s : State) (move : Result) : Result :=
  if now < s.now then .fault .timeRanBackwards else move

/-- The effect of each host transaction (10_state.md R46). -/
def transact (t : Transaction) (s : State) : Result :=
  match t with
  | .construct now => atTime now s (.next (s.hostReset now))
  | .reset now => atTime now s (.next (s.hostReset now))
  | .loadProgram bytes now =>
    if Config.maxImage < bytes.length then .next (s.emit .invalidProgram)
    else atTime now s (.next ((s.hostLoad bytes now).emit .loaded))
  | .step now rnd => atTime now s (stepTransaction now rnd s)
  | .pressKey k => .next (s.pressKey k)
  | .releaseKey k => .next (s.releaseKey k)
  | .getScreen => .next (s.emit (.screen s.screen.snapshot))
  | .getFault => .next (s.emit (.faultStatus s.fault))

/-- The time input of a free-running step: some ticks after the last one (10_state.md R44; log 3). -/
def State.freeNow (s : State) : Nat := s.now + Config.freeElapsed s.draws

/-- The random input of a free-running step (10_state.md R45; log 2). -/
def State.freeRnd (s : State) : Byte := Config.freeRandom s.draws

/-- The step of a host that has nothing scheduled: it calls `step` with free inputs (log 4). -/
def freeStep (s : State) : Result := stepTransaction s.freeNow s.freeRnd s.countDraw

/-- One transaction: the oldest scheduled one, or a free-running step (log 4). -/
def nextTransaction (s : State) : Result :=
  match s.schedule with
  | [] => freeStep s
  | t :: rest => transact t (s.setSchedule rest)

end Sys2Proof.Machine
end

