-- ==== Sys2Proof/Machine/Step.lean ====
section
/-! DEFINITION. The machine's step: one host transaction (10_state.md R46; log 4). -/

namespace Sys2Proof.Machine

/-- The next transaction of the machine: with nothing scheduled, a step that fetches at `pc` and runs what it fetches. -/
def step (s : State) : Host.Outcome State Fault Refusal := nextTransaction s

/-- `s` with an opcode-table word placed where `step` fetches its next instruction, so that the very next step runs it
(log 14). -/
def State.withFetchWord (s : State) (nbits w : Nat) : State := s.placeOpcode (tableOpcode nbits w)

end Sys2Proof.Machine
end

