-- ==== Sys2Proof/Safety.lean ====
section
/-! DEFINITION. The terms claims are stated in: the invariant of the machine, which fault an instruction raises and when, what
each instruction writes, and what it leaves alone. Each is written from the spec's own tables, not from the meanings. -/

namespace Sys2Proof.Machine

/-! ### Faults (60_exceptions.md R262, R265) -/

/-- The one cause an instruction can raise, if any (60_exceptions.md R262, the column "raised by"). -/
def Instr.faultCause : Instr → Option FaultCause
  | .call _ => some .stackOverflow
  | .skp _ | .sknp _ => some .keyIndexOutOfRange
  | .drw _ _ _ | .ldB _ | .storeRegs _ | .loadRegs _ => some .dataOutOfRange
  | .cls | .ret _ | .jp _ | .seImm _ _ | .sneImm _ _ | .seReg _ _ | .ldImm _ _ | .addImm _ _ | .ldReg _ _ | .orReg _ _
  | .andReg _ _ | .xorReg _ _ | .addReg _ _ | .subReg _ _ | .shr _ | .subnReg _ _ | .shre _ | .sneReg _ _ | .ldI _
  | .jpV0 _ | .rnd _ _ | .ld15 _ | .ldDt _ | .ldSt _ | .ldF _ | .ldK _ | .addI _ => none

/-- The fault an instruction raises in a state, with its `fault.value` (60_exceptions.md R262, the columns "condition" and
"fault.value"); `none` where the instruction executes normally. -/
def faultOf (i : Instr) (s : State) : Option (FaultCause × Word) :=
  match i with
  | .call _ =>
    if s.stack.length = s.params.stackDepth then some (.stackOverflow, BitVec.ofNat 16 s.stack.length) else none
  | .skp x | .sknp x => if 15 < (s.v x).toNat then some (.keyIndexOutOfRange, (s.v x).setWidth 16) else none
  | .drw _ _ n => if 0 < n.toNat ∧ 0xFFF < s.index.toNat + n.toNat - 1 then some (.dataOutOfRange, s.index) else none
  | .ldB _ => if 0xFFF < s.index.toNat + 2 then some (.dataOutOfRange, s.index) else none
  | .storeRegs x | .loadRegs x => if 0xFFF < s.index.toNat + x.toNat then some (.dataOutOfRange, s.index) else none
  | .cls | .ret _ | .jp _ | .seImm _ _ | .sneImm _ _ | .seReg _ _ | .ldImm _ _ | .addImm _ _ | .ldReg _ _ | .orReg _ _
  | .andReg _ _ | .xorReg _ _ | .addReg _ _ | .subReg _ _ | .shr _ | .subnReg _ _ | .shre _ | .sneReg _ _ | .ldI _
  | .jpV0 _ | .rnd _ _ | .ld15 _ | .ldDt _ | .ldSt _ | .ldF _ | .ldK _ | .addI _ => none

/-- The fault record of a fault raised by a decoded instruction (60_exceptions.md R263). -/
def faultRecordOf (s : State) (f : FaultCause × Word) : FaultRecord :=
  { valid := true, cause := f.1.code, pc := s.pc, opcode := s.opcodeAt, value := f.2 }

/-! ### The invariant -/

/-- The contents the fault status register can have (10_state.md R36; 60_exceptions.md R262, R263): all 0 while not valid;
else a fetch fault, with no opcode and a `pc` that cannot be fetched from, or the fault of an instruction that can raise it. -/
def FaultRecord.legal (f : FaultRecord) : Bool :=
  if f.valid then
    if f.cause = FaultCause.fetchOutOfRange.code then f.opcode == 0 && f.value == f.pc && 0xFFE < f.pc.toNat
    else
      f.pc.toNat ≤ 0xFFE &&
        match decode f.opcode with
        | .ok i =>
          match Instr.faultCause i with
          | some .dataOutOfRange => f.cause == FaultCause.dataOutOfRange.code && 0xFF0 < f.value.toNat
          | some .keyIndexOutOfRange =>
            f.cause == FaultCause.keyIndexOutOfRange.code && 15 < f.value.toNat && f.value.toNat ≤ 0xFF
          | some .stackOverflow => f.cause == FaultCause.stackOverflow.code
          | some .fetchOutOfRange => false
          | none => false
        | .error _ => false
  else f == FaultRecord.clear

/-- What holds of every state the machine can reach: memory in the model's own canonical form (log 7), a call stack within its
capacity (10_state.md R28, decision D17), a legal fault record (decision D12; its opcode by log 10), and a last decay that is
not in the future (10_state.md R35, R44, decision D20; log 3). -/
structure State.Inv (s : State) : Prop where
  canonicalMemory : Memory.wf s.params.font s.mem
  stackBounded    : s.stack.length ≤ s.params.stackDepth
  legalFault      : s.fault.legal = true
  tickInPast      : s.lastTick ≤ s.now

/-! ### Footprints and frames (10_state.md R22, R26 to R34) -/

/-- What an instruction may write, `pc` aside. -/
structure Footprint where
  /-- The general registers written. -/
  regs   : RegIdx → Bool := fun _ => false
  /-- The memory addresses written. -/
  mem    : Nat → Bool := fun _ => false
  index  : Bool := false
  stack  : Bool := false
  st     : Bool := false
  lock   : Bool := false
  screen : Bool := false

/-- The registers and other state each instruction writes when it does not fault (10_state.md R22 for the registers, R26 for
VF, R27 for `I`, R28 for the stack, R30 for ST, R32 for the lock, R34 for the screen, 20_memory.md R51 for memory). -/
def footprint (i : Instr) (s : State) : Footprint :=
  match i with
  | .seImm _ _ | .sneImm _ _ | .seReg _ _ | .sneReg _ _ | .skp _ | .sknp _ | .jp _ | .jpV0 _ => {}
  | .ret _ | .call _ => { stack := true }
  | .ldImm x _ | .addImm x _ | .ldReg x _ | .orReg x _ | .andReg x _ | .xorReg x _ | .rnd x _ | .ldDt x | .ld15 x =>
    { regs := fun j => j == x }
  | .addReg x _ | .subReg x _ | .subnReg x _ | .shr x | .shre x => { regs := fun j => j == x || j == vf }
  | .ldI _ | .addI _ | .ldF _ => { index := true }
  | .ldB _ => { mem := fun a => s.dataAddress 0 ≤ a && a ≤ s.dataAddress 2 }
  | .storeRegs x => { mem := fun a => s.dataAddress 0 ≤ a && a ≤ s.dataAddress x.toNat }
  | .loadRegs x => { regs := fun j => j.toNat ≤ x.toNat }
  | .ldSt _ => { st := true }
  | .ldK _ => { lock := true }
  | .cls => { screen := true }
  | .drw _ _ _ => { regs := fun j => j == vf, screen := true }

/-- `t` differs from `s` only in `pc` and inside the footprint `w`: every other register, every other byte of memory and every
other field is unchanged. -/
structure Frame (w : Footprint) (s t : State) : Prop where
  regs     : ∀ j, w.regs j = false → t.v j = s.v j
  mem      : ∀ a, w.mem a = false → t.readByte a = s.readByte a
  index    : w.index = false → t.index = s.index
  stack    : w.stack = false → t.stack = s.stack
  st       : w.st = false → t.st = s.st
  lock     : w.lock = false → t.lock = s.lock
  screen   : w.screen = false → t.screen = s.screen
  dt       : t.dt = s.dt
  keys     : t.keys = s.keys
  lastTick : t.lastTick = s.lastTick
  fault    : t.fault = s.fault
  params   : t.params = s.params
  now      : t.now = s.now
  rnd      : t.rnd = s.rnd
  draws    : t.draws = s.draws
  schedule : t.schedule = s.schedule
  outputs  : t.outputs = s.outputs

/-- Where `pc` is after an instruction that does not fault (10_state.md R24): the net effect of the instruction and the
universal advance. -/
def nextPc (i : Instr) (s : State) : Word :=
  match i with
  | .jp nnn | .call nnn => absolute nnn
  | .jpV0 nnn => s.offsetByV0 nnn
  | .ret _ => s.stack.headD (s.pc + 2)
  | .seImm x nn => if s.v x = nn then s.pc + 4 else s.pc + 2
  | .sneImm x nn => if s.v x = nn then s.pc + 2 else s.pc + 4
  | .seReg x y => if s.v x = s.v y then s.pc + 4 else s.pc + 2
  | .sneReg x y => if s.v x = s.v y then s.pc + 2 else s.pc + 4
  | .skp x => if s.key ((s.v x).setWidth 4) then s.pc + 4 else s.pc + 2
  | .sknp x => if s.key ((s.v x).setWidth 4) then s.pc + 2 else s.pc + 4
  | .cls | .ldImm _ _ | .addImm _ _ | .ldReg _ _ | .orReg _ _ | .andReg _ _ | .xorReg _ _ | .addReg _ _ | .subReg _ _
  | .shr _ | .subnReg _ _ | .shre _ | .ldI _ | .rnd _ _ | .drw _ _ _ | .ldB _ | .ld15 _ | .storeRegs _ | .loadRegs _
  | .ldDt _ | .ldSt _ | .ldF _ | .ldK _ | .addI _ => s.pc + 2

/-- The instruction completes: `exec` answers a next state with this `pc`, in which nothing outside the footprint has changed
and `result` holds. -/
def Completes (i : Instr) (s : State) (pc : Word) (w : Footprint) (result : State → Prop) : Prop :=
  ∃ t, exec i s = .next t ∧ t.pc = pc ∧ Frame w s t ∧ result t

/-- `t` has every register, byte of memory, pixel and other piece of the block's state of `s`, but for `pc`, the timers with
`last_tick`, and the fault status register. -/
structure Untouched (s t : State) : Prop where
  regs   : ∀ j, t.v j = s.v j
  mem    : ∀ a, t.readByte a = s.readByte a
  index  : t.index = s.index
  stack  : t.stack = s.stack
  keys   : t.keys = s.keys
  lock   : t.lock = s.lock
  screen : t.screen = s.screen
  params : t.params = s.params

/-- The timers of `t` are those of `s` after the decay of a step at time `now` (60_exceptions.md R276): each lowered by the
whole seconds elapsed and floored at zero, and `last_tick` moved only if a whole second has elapsed. -/
def TimersDecayed (now : Nat) (s t : State) : Prop :=
  t.dt.toNat = s.dt.toNat - (now - s.lastTick) / s.params.ticksPerSecond ∧
  t.st.toNat = s.st.toNat - (now - s.lastTick) / s.params.ticksPerSecond ∧
  t.lastTick = if 1 ≤ (now - s.lastTick) / s.params.ticksPerSecond then now else s.lastTick

/-- The host's next transaction is a step with these inputs, and its time does not run backwards (10_state.md R44, R46). -/
def StepScheduled (s : State) (now : Nat) (rnd : Byte) (rest : List Transaction) : Prop :=
  s.schedule = .step now rnd :: rest ∧ s.now ≤ now

/-- The host's next transaction resets the machine (70_reset_and_hazards.md R300): a construction, a reset, or a load of an
image that is accepted (R302). -/
def ResetScheduled (s : State) (now : Nat) : Prop :=
  ∃ rest, s.schedule = .construct now :: rest ∨ s.schedule = .reset now :: rest ∨
    ∃ bytes, bytes.length ≤ 3584 ∧ s.schedule = .loadProgram bytes now :: rest

/-- The host's next transaction samples a time that is less than an earlier one (93_implementation_defined.md U15; log 5). A
load that is rejected samples none (log 16). -/
def TimeRunsBackwards (s : State) : Prop :=
  ∃ now, now < s.now ∧ (ResetScheduled s now ∨ ∃ rnd rest, s.schedule = .step now rnd :: rest)

/-- The byte at address `b` after `n` bytes, the `k`-th of them `bytes k`, have been stored from address `a` on. -/
def overlaid (s : State) (a n : Nat) (bytes : Nat → Byte) (b : Nat) : Byte :=
  if a ≤ b ∧ b < a + n then bytes (b - a) else s.readByte b

/-! ### Encodings -/

/-- Every word with these fixed bits decodes to the instruction its fields name (30_encoding.md R92, R93). -/
def EncodedBy (mask pattern : Word) (build : Word → Instr) : Prop :=
  ∀ op : Word, op &&& mask = pattern → decode op = .ok (build op)

/-! ### The sprite as a set of pixels (46_display.md R242) -/

/-- Whether the sprite `bytes`, its top left corner at (px, py) with both axes wrapping, has a set bit on pixel (x, y): column
offset `c` of row `r` is bit `7 - c` of byte `r`. -/
def spriteCovers (px py : Nat) (bytes : List Byte) (x y : Nat) : Prop :=
  ∃ r c : Nat, r < bytes.length ∧ c < 8 ∧ (px + c) % Config.columns = x % Config.columns ∧
    (py + r) % Config.rows = y % Config.rows ∧ (bytes.getD r 0).getLsbD (7 - c) = true

end Sys2Proof.Machine
end

