-- ==== Sys2Proof/Certificates/Slice0/Obligations.lean ====
section
/-! DEFINITION. The statements for the provers. Each docstring says which rule of spec/ it formalises; "decision Dn" names a
choice of 92_eei_decisions.md that the spec marks as its own, "log n" one of the model's. -/

open Sys2Proof Sys2Proof.Machine

/-! ### Encoding (30_encoding.md) -/

/-- Words written out from 30_encoding.md R93 and R97 decode to the instructions they stand for. -/
def Obligations.SampleWordsDecode : Prop :=
  decode 0x00E0 = .ok .cls ∧ decode 0x00EE = .ok (.ret 0xE) ∧ decode 0x1234 = .ok (.jp 0x234) ∧
  decode 0x6005 = .ok (.ldImm 0 0x05) ∧ decode 0x8014 = .ok (.addReg 0 1) ∧ decode 0x812E = .ok (.shre 1) ∧
  decode 0xE3A1 = .ok (.skp 3) ∧ decode 0xD231 = .ok (.drw 2 3 1) ∧ decode 0xF265 = .ok (.loadRegs 2) ∧
  decode 0xF315 = .ok (.ld15 3) ∧ decode 0x8128 = .error (.unknownOpcode 0x8128)

/-- Decoding the word of a well-formed instruction gives the instruction back, with every operand (30_encoding.md R81, R93). -/
def Obligations.DecodeOfEncodeIsTheInstruction : Prop :=
  ∀ i : Instr, i.wf = true → decode (encode i) = .ok i

/-- 30_encoding.md R93 (rows 7 and 19 by decision D3, row 23's N by D4, and the unlisted words by D42): the decoder, which
dispatches by nibbles, selects exactly the rows of the opcode table by mask, match and constraint; a word that no row selects
is the unknown opcode. -/
def Obligations.DecoderAgreesWithOpcodeTable : Prop :=
  ∀ op : Word,
    (∀ i, decode op = .ok i ↔ ∃ r ∈ opcodeRows, r.selects op = true ∧ r.build op = i) ∧
    (decode op = .error (.unknownOpcode op) ↔ ∀ r ∈ opcodeRows, r.selects op = false)

/-- 30_encoding.md R92 (an inference the spec marks as derived): the rows are disjoint, so no match order is needed. -/
def Obligations.OpcodeRowsAreDisjoint : Prop :=
  ∀ op : Word, (opcodeRows.filter fun r => r.selects op).length ≤ 1

/-- 30_encoding.md R90 (decision D42): the unknown opcodes, nibble by nibble. -/
def Obligations.UnknownOpcodesAreExactlyThese : Prop :=
  ∀ op : Word, decode op = .error (.unknownOpcode op) ↔
    (fieldF op = 0x8 ∧ fieldN op ∈ [0x8, 0x9, 0xA, 0xB, 0xC, 0xD, 0xF]) ∨
    (fieldF op = 0xE ∧ fieldN op ∈ [0x0, 0x2, 0x3, 0x4, 0x5, 0x6, 0x7, 0x8, 0x9, 0xA, 0xB, 0xC, 0xD, 0xF]) ∨
    (fieldF op = 0xF ∧ fieldN op ∈ [0x0, 0x1, 0x2, 0x4, 0x6, 0xB, 0xC, 0xD, 0xF]) ∨
    (fieldF op = 0xF ∧ fieldN op = 0x5 ∧
      fieldY op ∈ [0x0, 0x2, 0x3, 0x4, 0x7, 0x8, 0x9, 0xA, 0xB, 0xC, 0xD, 0xE, 0xF])

/-! ### The step (40_execution_cycle.md) -/

/-- 40_execution_cycle.md R111: in a RUNNING machine with a fetchable `pc`, a scheduled step is `exec` of the decoded
instruction on the state with the step's inputs sampled, and then the timer decay; so is the free-running step of a host that
has nothing scheduled (logs 2 to 4). -/
def Obligations.StepRunsTheDecodedInstruction : Prop :=
  ∀ (s : State) (i : Instr), s.runState = .running → s.pc.toNat ≤ 0xFFE → decode s.opcodeAt = .ok i →
    (∀ now rnd rest, StepScheduled s now rnd rest →
      step s = thenNext (exec i ((s.setSchedule rest).latch now rnd)) fun t => t.timerDecay now) ∧
    (s.schedule = [] →
      step s = thenNext (exec i (s.countDraw.latch s.freeNow s.freeRnd)) fun t => t.timerDecay s.freeNow)

/-- 60_exceptions.md R266: a step whose word no row matches is no failure; it reports one diagnostic event (R271, decision
D30), advances `pc` by 2, and the rest of the block's state is unchanged but for the step's own timer decay (R276, decisions
D20 to D22). -/
def Obligations.UnknownOpcodeIsReportedAndSkipped : Prop :=
  ∀ s now rnd rest, StepScheduled s now rnd rest → s.runState = .running → s.pc.toNat ≤ 0xFFE →
    decode s.opcodeAt = .error (.unknownOpcode s.opcodeAt) →
    ∃ t, step s = .next t ∧ t.pc = s.pc + 2 ∧ t.outputs = .unknownOpcode s.pc s.opcodeAt :: s.outputs ∧
      t.fault = s.fault ∧ Untouched s t ∧ TimersDecayed now s t

/-- 40_execution_cycle.md R112 and R113 (decisions D11, D19, D23): a step of a FAULTED or AWAITING_KEY machine fetches and
executes nothing, leaves `pc`, and runs only the timer decay. -/
def Obligations.SuspendedStepOnlyDecaysTimers : Prop :=
  ∀ s now rnd rest, StepScheduled s now rnd rest → (s.fault.valid = true ∨ s.lock.active = true) →
    ∃ t, step s = .next t ∧ t.pc = s.pc ∧ t.outputs = s.outputs ∧ t.fault = s.fault ∧ Untouched s t ∧
      TimersDecayed now s t

/-- 40_execution_cycle.md R114 (decision D13): a fetch needs `pc ≤ 0xFFE`; otherwise the step reads nothing and records
FETCH_OUT_OF_RANGE with opcode 0 and value `pc`. -/
def Obligations.FetchOutOfRangeIsRecorded : Prop :=
  ∀ s now rnd rest, StepScheduled s now rnd rest → s.runState = .running → 0xFFE < s.pc.toNat →
    ∃ t, step s = .next t ∧ t.fault = { valid := true, cause := 1, pc := s.pc, opcode := 0, value := s.pc } ∧
      t.pc = s.pc ∧ t.outputs = s.outputs ∧ Untouched s t ∧ TimersDecayed now s t

/-! ### Register and ALU instructions (43_alu.md) -/

/-- 43_alu.md R171 and R172: LD Vx, NN and ADD Vx, NN, their encodings, results and frames; no flag, so VF changes only as the
destination. -/
def Obligations.ImmediateLoadAndAdd : Prop :=
  EncodedBy 0xF000 0x6000 (fun op => .ldImm (fieldX op) (fieldNN op)) ∧
  EncodedBy 0xF000 0x7000 (fun op => .addImm (fieldX op) (fieldNN op)) ∧
  ∀ (x : RegIdx) (nn : Byte) (s : State),
    Completes (.ldImm x nn) s (s.pc + 2) { regs := fun j => j == x } (fun t => t.v x = nn) ∧
    Completes (.addImm x nn) s (s.pc + 2) { regs := fun j => j == x }
      (fun t => (t.v x).toNat = ((s.v x).toNat + nn.toNat) % 256)

/-- 43_alu.md R173 to R176 (decision D8 for the untouched VF): copy, OR, AND and XOR, bit by bit. -/
def Obligations.CopyAndBitwise : Prop :=
  ∀ (x y : RegIdx) (s : State),
    Completes (.ldReg x y) s (s.pc + 2) { regs := fun j => j == x } (fun t => t.v x = s.v y) ∧
    Completes (.orReg x y) s (s.pc + 2) { regs := fun j => j == x }
      (fun t => ∀ b, (t.v x).getLsbD b = ((s.v x).getLsbD b || (s.v y).getLsbD b)) ∧
    Completes (.andReg x y) s (s.pc + 2) { regs := fun j => j == x }
      (fun t => ∀ b, (t.v x).getLsbD b = ((s.v x).getLsbD b && (s.v y).getLsbD b)) ∧
    Completes (.xorReg x y) s (s.pc + 2) { regs := fun j => j == x }
      (fun t => ∀ b, (t.v x).getLsbD b = ((s.v x).getLsbD b ^^ (s.v y).getLsbD b))

/-- 43_alu.md R177, with VF written last (R170, decision D7): the sum modulo 256, and VF = 1 iff the exact sum is at least 256;
when X = F, VF holds the carry. -/
def Obligations.AddReportsCarry : Prop :=
  ∀ (x y : RegIdx) (s : State),
    Completes (.addReg x y) s (s.pc + 2) { regs := fun j => j == x || j == vf } (fun t =>
      (x ≠ vf → (t.v x).toNat = ((s.v x).toNat + (s.v y).toNat) % 256) ∧
      t.v vf = if 256 ≤ (s.v x).toNat + (s.v y).toNat then 1 else 0)

/-- 43_alu.md R178, with VF written last (R170, decision D7): the difference modulo 256, and VF = 1 iff 0 < VY ≤ VX (the
source's "result less than original X" test, 90_conflicts.md C2). -/
def Obligations.SubtractReportsResultBelowOriginal : Prop :=
  ∀ (x y : RegIdx) (s : State),
    Completes (.subReg x y) s (s.pc + 2) { regs := fun j => j == x || j == vf } (fun t =>
      (x ≠ vf → (t.v x).toNat = ((s.v x).toNat + 256 - (s.v y).toNat) % 256) ∧
      t.v vf = if 0 < (s.v y).toNat ∧ (s.v y).toNat ≤ (s.v x).toNat then 1 else 0)

/-- 43_alu.md R180, with VF written last (R170, decision D7): VY - VX modulo 256, and VF = 1 iff VY > VX. -/
def Obligations.ReverseSubtractReportsGreater : Prop :=
  ∀ (x y : RegIdx) (s : State),
    Completes (.subnReg x y) s (s.pc + 2) { regs := fun j => j == x || j == vf } (fun t =>
      (x ≠ vf → (t.v x).toNat = ((s.v y).toNat + 256 - (s.v x).toNat) % 256) ∧
      t.v vf = if (s.v x).toNat < (s.v y).toNat then 1 else 0)

/-- 43_alu.md R179 and R181 (90_conflicts.md C3), with VF written last (R170, decision D7): both shifts go right by one, and
VF is the old bit 0. -/
def Obligations.BothShiftsGoRight : Prop :=
  ∀ (x : RegIdx) (s : State), ∀ i ∈ [Instr.shr x, Instr.shre x],
    Completes i s (s.pc + 2) { regs := fun j => j == x || j == vf } (fun t =>
      (x ≠ vf → (t.v x).toNat = (s.v x).toNat / 2) ∧ (t.v vf).toNat = (s.v x).toNat % 2)

/-- 43_alu.md R182: RND Vx, NN puts the random input ANDed with NN into VX, whatever that input is; in a step it is that step's
own random byte, sampled afresh by it. (`s.rnd` is the model's latched copy of the input, log 2; no value of it is assumed.) -/
def Obligations.RandomIsMaskedByImmediate : Prop :=
  EncodedBy 0xF000 0xC000 (fun op => .rnd (fieldX op) (fieldNN op)) ∧
  ∀ (x : RegIdx) (nn : Byte) (s : State),
    Completes (.rnd x nn) s (s.pc + 2) { regs := fun j => j == x } (fun t => t.v x = s.rnd &&& nn) ∧
    ∀ now r rest, StepScheduled s now r rest → s.runState = .running → s.pc.toNat ≤ 0xFFE →
      decode s.opcodeAt = .ok (.rnd x nn) → ∃ t, step s = .next t ∧ t.v x = r &&& nn

/-! ### Control transfer and skips (41_control_transfer.md, 42_skips.md) -/

/-- 41_control_transfer.md R131 (decision D15 for NNN = 0): JP ends at its target and changes nothing else. -/
def Obligations.JumpEndsAtTarget : Prop :=
  ∀ (nnn : Imm12) (s : State), Completes (.jp nnn) s (BitVec.ofNat 16 nnn.toNat) {} (fun _ => True)

/-- 41_control_transfer.md R133 (decision D16): JP V0 ends at NNN + V0, a sum that is not reduced to 12 bits. -/
def Obligations.OffsetJumpEndsAtSum : Prop :=
  ∀ (nnn : Imm12) (s : State),
    Completes (.jpV0 nnn) s (BitVec.ofNat 16 (nnn.toNat + (s.v 0).toNat)) {}
      (fun t => t.pc.toNat = nnn.toNat + (s.v 0).toNat)

/-- 41_control_transfer.md R132 (decision D17 for the capacity): with room on the stack CALL pushes its own address and ends at
its target. -/
def Obligations.CallPushesItsOwnAddress : Prop :=
  ∀ (nnn : Imm12) (s : State), s.stack.length ≠ s.params.stackDepth →
    Completes (.call nnn) s (BitVec.ofNat 16 nnn.toNat) { stack := true } (fun t => t.stack = s.pc :: s.stack)

/-- 41_control_transfer.md R130 (decision D31): RET ends at the popped value; on an empty stack it only advances. -/
def Obligations.ReturnPopsOrOnlyAdvances : Prop :=
  ∀ (n : Nibble) (s : State),
    (s.stack = [] → Completes (.ret n) s (s.pc + 2) {} (fun _ => True)) ∧
    (∀ a rest, s.stack = a :: rest → Completes (.ret n) s a { stack := true } (fun t => t.stack = rest))

/-- 41_control_transfer.md R130 (b), 90_conflicts.md C7 (derived by the spec): a RET that pops what a CALL pushed lands on that
CALL again, with the stack as it was before the CALL. -/
def Obligations.ReturnLandsOnTheCall : Prop :=
  ∀ (nnn : Imm12) (n : Nibble) (s : State), s.stack.length ≠ s.params.stackDepth →
    ∃ t, exec (.call nnn) s = .next t ∧
      ∀ u : State, u.stack = t.stack → ∃ w, exec (.ret n) u = .next w ∧ w.pc = s.pc ∧ w.stack = s.stack

/-- 42_skips.md R151 and R152: SE and SNE with an immediate end at `pc + 4` when the skip is taken and at `pc + 2` otherwise,
and change nothing else. -/
def Obligations.SkipsOnImmediate : Prop :=
  EncodedBy 0xF000 0x3000 (fun op => .seImm (fieldX op) (fieldNN op)) ∧
  EncodedBy 0xF000 0x4000 (fun op => .sneImm (fieldX op) (fieldNN op)) ∧
  ∀ (x : RegIdx) (nn : Byte) (s : State),
    Completes (.seImm x nn) s (if s.v x = nn then s.pc + 4 else s.pc + 2) {} (fun _ => True) ∧
    Completes (.sneImm x nn) s (if s.v x ≠ nn then s.pc + 4 else s.pc + 2) {} (fun _ => True)

/-- 42_skips.md R153 and R154 (decision D3 for the ignored low nibble): SE and SNE on two registers, for every word of their
families. -/
def Obligations.SkipsOnRegisters : Prop :=
  EncodedBy 0xF000 0x5000 (fun op => .seReg (fieldX op) (fieldY op)) ∧
  EncodedBy 0xF000 0x9000 (fun op => .sneReg (fieldX op) (fieldY op)) ∧
  ∀ (x y : RegIdx) (s : State),
    Completes (.seReg x y) s (if s.v x = s.v y then s.pc + 4 else s.pc + 2) {} (fun _ => True) ∧
    Completes (.sneReg x y) s (if s.v x ≠ s.v y then s.pc + 4 else s.pc + 2) {} (fun _ => True)

/-- 42_skips.md R155 and R156: with a key index up to 15, SKP skips if that key is pressed and SKNP if it is not; above 15 both
raise KEY_INDEX_OUT_OF_RANGE and change nothing but the record (R157, decision D18). The record's code and fields are those of
60_exceptions.md R262 and R263 (decision D12); its opcode is the word at `pc` (log 10). -/
def Obligations.SkipsOnKey : Prop :=
  ∀ (x : RegIdx) (s : State),
    (∀ k : Nibble, (s.v x).toNat = k.toNat →
      Completes (.skp x) s (if s.key k = true then s.pc + 4 else s.pc + 2) {} (fun _ => True) ∧
      Completes (.sknp x) s (if s.key k = false then s.pc + 4 else s.pc + 2) {} (fun _ => True)) ∧
    (15 < (s.v x).toNat → ∀ i ∈ [Instr.skp x, Instr.sknp x],
      exec i s = .next { s with fault :=
        { valid := true, cause := 3, pc := s.pc, opcode := s.opcodeAt, value := BitVec.ofNat 16 (s.v x).toNat } })

/-! ### Index register and memory (44_index_memory.md, 20_memory.md) -/

/-- 44_index_memory.md R200 and R202: LD I, NNN and LD F, Vx, their encodings, values and frames; no memory is accessed. -/
def Obligations.IndexLoadAndGlyphAddress : Prop :=
  EncodedBy 0xF000 0xA000 (fun op => .ldI (fieldNNN op)) ∧
  EncodedBy 0xF00F 0xF009 (fun op => .ldF (fieldX op)) ∧
  (∀ (nnn : Imm12) (s : State),
    Completes (.ldI nnn) s (s.pc + 2) { index := true } (fun t => t.index.toNat = nnn.toNat)) ∧
  ∀ (x : RegIdx) (s : State),
    Completes (.ldF x) s (s.pc + 2) { index := true } (fun t => t.index.toNat = (s.v x).toNat * 5)

/-- 44_index_memory.md R201 (decisions D15 and D40): ADD I, Vx wraps modulo 2^16 and writes no flag. -/
def Obligations.IndexAddWraps : Prop :=
  ∀ (x : RegIdx) (s : State),
    Completes (.addI x) s (s.pc + 2) { index := true }
      (fun t => t.index.toNat = (s.index.toNat + (s.v x).toNat) % 65536)

/-- 44_index_memory.md R203 (decision D34 for the unchanged I): the three decimal digits of VX at I, I + 1, I + 2; every other
byte is unchanged. -/
def Obligations.DecimalDigitsAreStored : Prop :=
  ∀ (x : RegIdx) (s : State), s.index.toNat + 2 ≤ 0xFFF →
    Completes (.ldB x) s (s.pc + 2) { mem := fun a => s.dataAddress 0 ≤ a && a ≤ s.dataAddress 2 } (fun t =>
      (t.readByte (s.dataAddress 0)).toNat = (s.v x).toNat / 100 ∧
      (t.readByte (s.dataAddress 1)).toNat = (s.v x).toNat / 10 % 10 ∧
      (t.readByte (s.dataAddress 2)).toNat = (s.v x).toNat % 10)

/-- 44_index_memory.md R204 (decisions D34 and D35): V0..VX at I .. I + X; every other byte is unchanged. -/
def Obligations.LowRegistersAreStored : Prop :=
  ∀ (x : RegIdx) (s : State), s.index.toNat + x.toNat ≤ 0xFFF →
    Completes (.storeRegs x) s (s.pc + 2) { mem := fun a => s.dataAddress 0 ≤ a && a ≤ s.dataAddress x.toNat } (fun t =>
      ∀ j : RegIdx, j.toNat ≤ x.toNat → t.readByte (s.dataAddress j.toNat) = s.v j)

/-- 44_index_memory.md R205 (decision D34): V0..VX from I .. I + X; every other register and every byte is unchanged. -/
def Obligations.LowRegistersAreLoaded : Prop :=
  ∀ (x : RegIdx) (s : State), s.index.toNat + x.toNat ≤ 0xFFF →
    Completes (.loadRegs x) s (s.pc + 2) { regs := fun j => j.toNat ≤ x.toNat } (fun t =>
      ∀ j : RegIdx, j.toNat ≤ x.toNat → t.v j = s.readByte (s.dataAddress j.toNat))

/-- 20_memory.md R58: a write changes only the byte written, reading it gives what was written, and at no address does it
change anything but memory. A read is a function of the state, so it changes nothing. -/
def Obligations.WriteChangesOnlyTheByteWritten : Prop :=
  ∀ (s : State) (a : Nat) (v : Byte), a ≤ 0xFFF →
    (∀ b, (s.writeBytes a [v]).readByte b = if b = a then v else s.readByte b) ∧
    s.writeBytes a [v] = { s with mem := (s.writeBytes a [v]).mem }

/-- 20_memory.md R65 (derived by the spec): after a store by LD B, Vx or LD [I], Vx the next fetch reads each byte that was
stored over the next word, one or both, as it was stored, and the others as they were. -/
def Obligations.StoreIsSeenByTheNextFetch : Prop :=
  ∀ (x : RegIdx) (s : State), (s.pc + 2).toNat ≤ 0xFFE →
    (s.index.toNat + 2 ≤ 0xFFF →
      let new := overlaid s (s.dataAddress 0) 3 fun k =>
        BitVec.ofNat 8 (if k = 0 then (s.v x).toNat / 100 else if k = 1 then (s.v x).toNat / 10 % 10 else (s.v x).toNat % 10)
      ∃ t, exec (.ldB x) s = .next t ∧ t.pc = s.pc + 2 ∧
        t.opcodeAt = new (s.pc + 2).toNat ++ new ((s.pc + 2).toNat + 1)) ∧
    (s.index.toNat + x.toNat ≤ 0xFFF →
      let new := overlaid s (s.dataAddress 0) (x.toNat + 1) fun k => s.v (BitVec.ofNat 4 k)
      ∃ t, exec (.storeRegs x) s = .next t ∧ t.pc = s.pc + 2 ∧
        t.opcodeAt = new (s.pc + 2).toNat ++ new ((s.pc + 2).toNat + 1))

/-! ### Timers and input (45_timers_input.md, 60_exceptions.md) -/

/-- 45_timers_input.md R220 and R221: both encodings copy DT into VX and leave DT; a step reads DT as it was before its own
decay. -/
def Obligations.DelayTimerIsRead : Prop :=
  EncodedBy 0xF00F 0xF007 (fun op => .ldDt (fieldX op)) ∧ EncodedBy 0xF0FF 0xF015 (fun op => .ld15 (fieldX op)) ∧
  ∀ (x : RegIdx) (s : State), ∀ i ∈ [Instr.ldDt x, Instr.ld15 x],
    Completes i s (s.pc + 2) { regs := fun j => j == x } (fun t => t.v x = s.dt) ∧
    ∀ now rnd rest, StepScheduled s now rnd rest → s.runState = .running → s.pc.toNat ≤ 0xFFE → decode s.opcodeAt = .ok i →
      ∃ t, step s = .next t ∧ t.v x = s.dt

/-- 45_timers_input.md R222: LD ST, Vx copies VX into ST, and the same step's decay (60_exceptions.md R276, decisions D20 to
D22) may at once lower it. -/
def Obligations.SoundTimerIsSetThenDecays : Prop :=
  EncodedBy 0xF00F 0xF008 (fun op => .ldSt (fieldX op)) ∧
  (∀ (x : RegIdx) (s : State), Completes (.ldSt x) s (s.pc + 2) { st := true } (fun t => t.st = s.v x)) ∧
  ∀ x s now rnd rest, StepScheduled s now rnd rest → s.runState = .running → s.pc.toNat ≤ 0xFFE →
    decode s.opcodeAt = .ok (.ldSt x) →
    ∃ t, step s = .next t ∧ t.st.toNat = (s.v x).toNat - (now - s.lastTick) / s.params.ticksPerSecond

/-- 45_timers_input.md R223 (decision D19): LD Vx, K sets the lock on X, completes its advance and writes no register. -/
def Obligations.WaitForKeySetsTheLock : Prop :=
  ∀ (x : RegIdx) (s : State),
    Completes (.ldK x) s (s.pc + 2) { lock := true } (fun t => t.lock = { active := true, target := x })

/-- 45_timers_input.md R224 (decision D33): a press marks its key, and resolves an active lock by writing the key into the
target register, in every run state. -/
def Obligations.PressResolvesTheLock : Prop :=
  ∀ (s : State) (k : Nibble) (rest : List Transaction), s.schedule = .pressKey k :: rest →
    ∃ t, step s = .next t ∧ (∀ j, t.key j = if j = k then true else s.key j) ∧ t.lock.active = false ∧
      t.lock.target = s.lock.target ∧
      (∀ j, (t.v j).toNat = if s.lock.active = true ∧ j = s.lock.target then k.toNat else (s.v j).toNat) ∧
      t = { s with regs := t.regs, keys := t.keys, lock := t.lock, schedule := rest }

/-- 45_timers_input.md R225: a release marks its key released and has no other effect. -/
def Obligations.ReleaseOnlyLiftsTheKey : Prop :=
  ∀ (s : State) (k : Nibble) (rest : List Transaction), s.schedule = .releaseKey k :: rest →
    ∃ t, step s = .next t ∧ (∀ j, t.key j = if j = k then false else s.key j) ∧
      t = { s with keys := t.keys, schedule := rest }

/-- 60_exceptions.md R276 and R277 (a) (decisions D20 to D22): each timer falls by the whole seconds elapsed, floored at zero,
and `last_tick` moves to `now` only when a whole second has elapsed; nothing else changes. -/
def Obligations.DecayLowersByWholeSeconds : Prop :=
  ∀ (s : State) (now : Nat), TimersDecayed now s (s.timerDecay now) ∧
    s.timerDecay now =
      { s with dt := (s.timerDecay now).dt, st := (s.timerDecay now).st, lastTick := (s.timerDecay now).lastTick }

/-- 45_timers_input.md R226 and 60_exceptions.md R277 (e) (derived by the spec): no transaction raises DT, so once 0 it stays
0 for ever. -/
def Obligations.DelayTimerNeverRises : Prop :=
  ∀ s t : State, step s = .next t → t.dt.toNat ≤ s.dt.toNat

/-! ### Display (46_display.md) -/

/-- 46_display.md R241: every word 0??0 is CLS, which turns every pixel off and writes no flag. -/
def Obligations.ClearTurnsEveryPixelOff : Prop :=
  EncodedBy 0xF00F 0x0000 (fun _ => .cls) ∧
  ∀ s : State, Completes .cls s (s.pc + 2) { screen := true } (fun t => ∀ x y, t.screen.pixel x y = false)

/-- 46_display.md R242 to R244 (decisions D4 to D6 and D45): with its bytes in memory, DRW complements exactly the pixels under a set
sprite bit, both axes wrapping, and VF ends as 1 iff one of them was on. -/
def Obligations.DrawComplementsCoveredPixels : Prop :=
  ∀ (x y : RegIdx) (n : Nibble) (s : State), n.toNat = 0 ∨ s.index.toNat + n.toNat - 1 ≤ 0xFFF →
    Completes (.drw x y n) s (s.pc + 2) { regs := fun j => j == vf, screen := true } (fun t =>
      let covers := spriteCovers (s.v x).toNat (s.v y).toNat (s.readBytes (s.dataAddress 0) n.toNat)
      (∀ u v, covers u v → t.screen.pixel u v = !s.screen.pixel u v) ∧
      (∀ u v, ¬ covers u v → t.screen.pixel u v = s.screen.pixel u v) ∧
      ((∃ u v, covers u v ∧ s.screen.pixel u v = true) → t.v vf = 1) ∧
      ((¬ ∃ u v, covers u v ∧ s.screen.pixel u v = true) → t.v vf = 0))

/-- 46_display.md R246 (derived by the spec): drawing the same sprite at the same place again restores every pixel, and the
second draw reports a collision iff a covered pixel was off before the first. `u` is any state in which the second draw has
the same coordinates, height, `I` and bytes, and the screen the first one left. -/
def Obligations.DrawingTwiceRestoresTheScreen : Prop :=
  ∀ (x y x' y' : RegIdx) (n : Nibble) (s : State), n.toNat = 0 ∨ s.index.toNat + n.toNat - 1 ≤ 0xFFF →
    ∃ t, exec (.drw x y n) s = .next t ∧
      ∀ u : State, u.v x' = s.v x → u.v y' = s.v y → u.index = s.index →
        (∀ k, k < n.toNat → u.readByte (u.dataAddress k) = s.readByte (s.dataAddress k)) → u.screen = t.screen →
        ∃ w, exec (.drw x' y' n) u = .next w ∧ w.screen = s.screen ∧
          (w.v vf = 1 ↔ ∃ p q,
            spriteCovers (s.v x).toNat (s.v y).toNat (s.readBytes (s.dataAddress 0) n.toNat) p q ∧
              s.screen.pixel p q = false)

/-! ### Faults and frames, over all instructions (60_exceptions.md, 10_state.md) -/

/-- 60_exceptions.md R261 to R263 and R265 (decisions D9, D10, D12, D17, D18): an instruction whose fault condition holds
changes nothing but the fault record, which names the cause, the `pc`, the opcode and the value. Two clauses are the model's
own: the opcode is the word at `pc`, read again, also for an instruction that is not the one at `pc` (log 10), and the stack
length is truncated to the record's 16 bits (log 12). -/
def Obligations.FaultingInstructionOnlyRecords : Prop :=
  ∀ (i : Instr) (s : State) (f : FaultCause × Word), faultOf i s = some f →
    exec i s = .next { s with fault := faultRecordOf s f }

/-- 10_state.md R22 and R24, 20_memory.md R51 (decisions D8 and D40 for VF, D15, D16 and D31 for `pc`, D19 for LD Vx, K, D34 for
I, and D9, D17, D18 and D35 for when a fault is raised): an instruction whose fault condition does not hold completes, ends at
its net `pc`, and changes nothing outside its footprint. -/
def Obligations.InstructionStaysInItsFootprint : Prop :=
  ∀ (i : Instr) (s : State), faultOf i s = none → Completes i s (nextPc i s) (footprint i s) (fun _ => True)

/-- 10_state.md R37, 60_exceptions.md R264 (decisions D11, D12): a construction, a reset or an accepted load clears a FAULTED machine's
record and leaves it RUNNING; every other transaction keeps the record and leaves the machine FAULTED. -/
def Obligations.FaultIsStickyUntilReset : Prop :=
  ∀ s t : State, s.fault.valid = true → step s = .next t →
    ((∃ now, ResetScheduled s now) →
      t.fault = { valid := false, cause := 0, pc := 0, opcode := 0, value := 0 } ∧ t.runState = .running) ∧
    ((¬ ∃ now, ResetScheduled s now) → t.fault = s.fault ∧ t.runState = .faulted)

/-- 60_exceptions.md R283: the input lock is left only by a key press or a reset (construction and an accepted load reset). -/
def Obligations.LockIsLeftOnlyByPressOrReset : Prop :=
  ∀ s t : State, s.lock.active = true → step s = .next t → t.lock ≠ s.lock →
    ∃ rest, (∃ k, s.schedule = .pressKey k :: rest) ∨ ∃ now, s.schedule = .construct now :: rest ∨
      s.schedule = .reset now :: rest ∨ ∃ bytes, bytes.length ≤ 3584 ∧ s.schedule = .loadProgram bytes now :: rest

/-- 70_reset_and_hazards.md R312 (decision D46): a step at a jump to itself changes only the timers. -/
def Obligations.SelfJumpChangesOnlyTimers : Prop :=
  ∀ s now rnd rest nnn, StepScheduled s now rnd rest → s.runState = .running → s.pc.toNat ≤ 0xFFE →
    decode s.opcodeAt = .ok (.jp nnn) → s.pc.toNat = nnn.toNat →
    ∃ t, step s = .next t ∧ t.pc = s.pc ∧ t.outputs = s.outputs ∧ t.fault = s.fault ∧ Untouched s t ∧
      TimersDecayed now s t

/-! ### Reset and load (70_reset_and_hazards.md) -/

/-- 70_reset_and_hazards.md R301 and R303, 10_state.md R41 (decisions D24, D27, D39): what construction and reset leave, from
every state. (Past 0xFFF, where no address exists, the model's reader answers 0 too: log 17.) -/
def Obligations.ResetEstablishesTheResetState : Prop :=
  ∀ s now rest, s.schedule = .construct now :: rest ∨ s.schedule = .reset now :: rest → s.now ≤ now →
    ∃ t, step s = .next t ∧ t.pc = 0x200 ∧ (∀ j, t.v j = 0) ∧ t.index = 0 ∧ t.stack = [] ∧
      (∀ k, t.key k = false) ∧ t.lock = { active := false, target := 0 } ∧ (∀ x y, t.screen.pixel x y = false) ∧
      (∀ a (h : a < 80), t.readByte a = s.params.font[a]) ∧ (∀ a, 80 ≤ a → t.readByte a = 0) ∧
      t.dt = 0 ∧ t.st = 0 ∧ t.lastTick = now ∧
      t.fault = { valid := false, cause := 0, pc := 0, opcode := 0, value := 0 } ∧ t.runState = .running ∧
      t.params = s.params

/-- 60_exceptions.md R278 (decisions D24 and D39): DT = ST = 0 and `last_tick` is `now` after construction, reset and a
successful load. -/
def Obligations.TimersAreZeroAfterReset : Prop :=
  ∀ s now rest bytes,
    (s.schedule = .construct now :: rest ∨ s.schedule = .reset now :: rest ∨
      (s.schedule = .loadProgram bytes now :: rest ∧ bytes.length ≤ 3584)) → s.now ≤ now →
    ∃ t, step s = .next t ∧ t.dt = 0 ∧ t.st = 0 ∧ t.lastTick = now

/-- 70_reset_and_hazards.md R302 (decision D28), 10_state.md R41 (decisions D12, D24, D27, D39): a load of at most 3584 bytes leaves
every piece of state at its reset value, but for the image, copied to 0x200. -/
def Obligations.LoadResetsAndCopiesTheImage : Prop :=
  ∀ s bytes now rest, s.schedule = .loadProgram bytes now :: rest → s.now ≤ now → bytes.length ≤ 3584 →
    ∃ t, step s = .next t ∧ t.outputs = .loaded :: s.outputs ∧ t.pc = 0x200 ∧ (∀ j, t.v j = 0) ∧ t.index = 0 ∧
      t.stack = [] ∧ (∀ k, t.key k = false) ∧ t.lock = { active := false, target := 0 } ∧
      (∀ x y, t.screen.pixel x y = false) ∧
      (∀ a (h : a < 80), t.readByte a = s.params.font[a]) ∧
      (∀ k (h : k < bytes.length), t.readByte (0x200 + k) = bytes[k]) ∧
      (∀ a, 80 ≤ a → a ≤ 0xFFF → a < 0x200 ∨ 0x200 + bytes.length ≤ a → t.readByte a = 0) ∧
      t.dt = 0 ∧ t.st = 0 ∧ t.lastTick = now ∧
      t.fault = { valid := false, cause := 0, pc := 0, opcode := 0, value := 0 } ∧ t.runState = .running ∧
      t.params = s.params

/-- 60_exceptions.md R268 (decision D28): a longer image is answered InvalidProgram and changes no state, whatever the time. -/
def Obligations.TooLongImageChangesNothing : Prop :=
  ∀ s bytes now rest, s.schedule = .loadProgram bytes now :: rest → 3584 < bytes.length →
    step s = .next { s with schedule := rest, outputs := .invalidProgram :: s.outputs }

/-- 10_state.md R48: `get_screen` returns the 2048 pixels in row-major order and changes no state. -/
def Obligations.ScreenReadIsRowMajorAndChangesNothing : Prop :=
  ∀ s rest, s.schedule = .getScreen :: rest →
    ∃ pixels : List Bool, step s = .next { s with schedule := rest, outputs := .screen pixels :: s.outputs } ∧
      pixels.length = 2048 ∧ ∀ x y, x < 64 → y < 32 → pixels.getD (64 * y + x) false = s.screen.pixel x y

/-- 60_exceptions.md R263 (decision D12): reading the fault record returns it and does not clear it. -/
def Obligations.FaultReadChangesNothing : Prop :=
  ∀ s rest, s.schedule = .getFault :: rest →
    ∃ t, step s = .next t ∧ t.outputs = .faultStatus s.fault :: s.outputs ∧ t.fault = s.fault ∧ t.pc = s.pc ∧
      Untouched s t ∧ t.dt = s.dt ∧ t.st = s.st ∧ t.lastTick = s.lastTick

/-! ### The whole machine -/

/-- The invariant `State.Inv` at reset, for every choice of the open parameters, time and host behaviour (logs 1, 4, 8). Its
canonical form of memory is the model's own convention (log 7). -/
def Obligations.InvariantHoldsAtReset : Prop :=
  State.reset.Inv ∧ ∀ p now l, ((State.resetWith p now).setSchedule l).Inv

/-- Every transaction keeps the invariant: a call stack within STACK_DEPTH (10_state.md R28, decision D17), a last decay not in
the future (R35, R44, decision D20; log 3), a legal fault record (60_exceptions.md R262, R263, decisions D12, D13 and D18; its
opcode by log 10), and, the model's own convention, memory in its canonical form (log 7). -/
def Obligations.EveryStepKeepsTheInvariant : Prop :=
  ∀ s t : State, s.Inv → step s = .next t → t.Inv

/-- 10_state.md R40, 00_scope.md R8 (log 1): the open parameters are configuration; no transition writes them. -/
def Obligations.ParametersNeverChange : Prop :=
  ∀ s t : State, step s = .next t → t.params = s.params

/-- 93_implementation_defined.md U15 (log 5): the machine stops exactly when the next transaction samples a time less than an
earlier one (an over-long load is answered before its time is looked at, log 16); otherwise it moves, and no instruction stops
it. -/
def Obligations.OnlyBackwardTimeStops : Prop :=
  ∀ s : State,
    (TimeRunsBackwards s → step s = .fault .timeRanBackwards) ∧ (¬ TimeRunsBackwards s → ∃ t, step s = .next t)

/-- 10_state.md R30 and 60_exceptions.md R271 (decisions D30, D43): nothing reads ST or the outputs, so two machines that differ
only in them go on differing only in them. -/
def Obligations.SoundTimerAndOutputsAreNeverRead : Prop :=
  ∀ (s t : State) (v : Byte) (l : List Output), step s = .next t →
    ∃ v' l', step { s with st := v, outputs := l } = .next { t with st := v', outputs := l' }

/-- The model's own (log 14): a word placed by `withFetchWord` is what the very next step fetches. -/
def Obligations.PlacedWordIsFetchedNext : Prop :=
  ∀ (s : State) (nbits w : Nat),
    (s.withFetchWord nbits w).opcodeAt = BitVec.ofNat 16 (w % 2 ^ nbits) ∧
    (s.withFetchWord nbits w).runState = .running ∧ (s.withFetchWord nbits w).pc.toNat ≤ 0xFFE ∧
    (s.withFetchWord nbits w).stepIsNext = true
end

