-- ==== Sys2Proof/Laws/Decode.lean ====
section
/-! SUPPORT. The decoder by nibbles: every word is four nibbles, and the fields of a word of nibbles are those nibbles. -/

namespace Sys2Proof

section
variable (f x y n : Nibble)

/-- The value of a word of four nibbles. -/
theorem toNat_nibbles : (f ++ x ++ y ++ n : Word).toNat = f.toNat * 4096 + x.toNat * 256 + y.toNat * 16 + n.toNat := by
  have := x.isLt; have := y.isLt; have := n.isLt
  simp only [BitVec.toNat_append]
  rw [← Nat.shiftLeft_add_eq_or_of_lt (by omega), ← Nat.shiftLeft_add_eq_or_of_lt (by omega),
    ← Nat.shiftLeft_add_eq_or_of_lt (by omega)]
  simp only [Nat.shiftLeft_eq]
  omega

/-- The value of a byte of two nibbles. -/
theorem toNat_nibbles2 : (y ++ n : Byte).toNat = y.toNat * 16 + n.toNat := by
  have := n.isLt
  rw [BitVec.toNat_append, ← Nat.shiftLeft_add_eq_or_of_lt (by omega), Nat.shiftLeft_eq]

/-- The value of an immediate of three nibbles. -/
theorem toNat_nibbles3 : (x ++ y ++ n : Imm12).toNat = x.toNat * 256 + y.toNat * 16 + n.toNat := by
  have := n.isLt; have := y.isLt
  rw [BitVec.toNat_append, ← Nat.shiftLeft_add_eq_or_of_lt (by omega), BitVec.toNat_append,
    ← Nat.shiftLeft_add_eq_or_of_lt (by omega), Nat.shiftLeft_eq, Nat.shiftLeft_eq]
  omega

@[simp] theorem fieldF_nibbles : fieldF (f ++ x ++ y ++ n) = f := by
  apply BitVec.eq_of_toNat_eq
  have := f.isLt; have := x.isLt; have := y.isLt; have := n.isLt
  simp only [fieldF, nibble, BitVec.extractLsb'_toNat, toNat_nibbles, Nat.shiftRight_eq_div_pow]
  omega

@[simp] theorem fieldX_nibbles : fieldX (f ++ x ++ y ++ n) = x := by
  apply BitVec.eq_of_toNat_eq
  have := x.isLt; have := y.isLt; have := n.isLt
  simp only [fieldX, nibble, BitVec.extractLsb'_toNat, toNat_nibbles, Nat.shiftRight_eq_div_pow]
  omega

@[simp] theorem fieldY_nibbles : fieldY (f ++ x ++ y ++ n) = y := by
  apply BitVec.eq_of_toNat_eq
  have := y.isLt; have := n.isLt
  simp only [fieldY, nibble, BitVec.extractLsb'_toNat, toNat_nibbles, Nat.shiftRight_eq_div_pow]
  omega

@[simp] theorem fieldN_nibbles : fieldN (f ++ x ++ y ++ n) = n := by
  apply BitVec.eq_of_toNat_eq
  have := n.isLt
  simp only [fieldN, nibble, BitVec.extractLsb'_toNat, toNat_nibbles, Nat.shiftRight_eq_div_pow]
  omega

@[simp] theorem fieldNN_nibbles : fieldNN (f ++ x ++ y ++ n) = y ++ n := by
  apply BitVec.eq_of_toNat_eq
  have := y.isLt; have := n.isLt
  rw [fieldNN, BitVec.extractLsb'_toNat, toNat_nibbles, toNat_nibbles2, Nat.shiftRight_eq_div_pow]
  omega

@[simp] theorem fieldNNN_nibbles : fieldNNN (f ++ x ++ y ++ n) = x ++ y ++ n := by
  apply BitVec.eq_of_toNat_eq
  have := x.isLt; have := y.isLt; have := n.isLt
  rw [fieldNNN, BitVec.extractLsb'_toNat, toNat_nibbles, toNat_nibbles3, Nat.shiftRight_eq_div_pow]
  omega

end

/-- Every word is its four nibbles (30_encoding.md R81). -/
theorem word_eq_nibbles (op : Word) : op = fieldF op ++ fieldX op ++ fieldY op ++ fieldN op := by
  apply BitVec.eq_of_toNat_eq
  rw [toNat_nibbles]
  have := op.isLt
  simp only [fieldF, fieldX, fieldY, fieldN, nibble, BitVec.extractLsb'_toNat, Nat.shiftRight_eq_div_pow]
  omega

/-- A fact about every word is a fact about every four nibbles. -/
theorem forall_word {p : Word → Prop} (h : ∀ f x y n : Nibble, p (f ++ x ++ y ++ n)) (op : Word) : p op := by
  rw [word_eq_nibbles op]; exact h _ _ _ _

/-- A byte is its two nibbles. -/
theorem byte_eq_nibbles (b : Byte) : b = b.extractLsb' 4 4 ++ b.extractLsb' 0 4 := by
  apply BitVec.eq_of_toNat_eq
  have := b.isLt
  simp only [BitVec.toNat_append, BitVec.extractLsb'_toNat, Nat.shiftRight_eq_div_pow]
  rw [← Nat.shiftLeft_add_eq_or_of_lt (by omega)]
  omega

/-- A 12-bit immediate is its three nibbles. -/
theorem imm12_eq_nibbles (b : Imm12) : b = b.extractLsb' 8 4 ++ b.extractLsb' 4 4 ++ b.extractLsb' 0 4 := by
  apply BitVec.eq_of_toNat_eq
  have := b.isLt
  simp only [BitVec.toNat_append, BitVec.extractLsb'_toNat, Nat.shiftRight_eq_div_pow]
  rw [← Nat.shiftLeft_add_eq_or_of_lt (by omega), ← Nat.shiftLeft_add_eq_or_of_lt (by omega)]
  omega

/-- A nibble, a nibble and a byte are four nibbles. -/
theorem nibbles_of_byte (f x : Nibble) (b : Byte) :
    (f ++ x ++ b : Word) = f ++ x ++ b.extractLsb' 4 4 ++ b.extractLsb' 0 4 := by
  conv_lhs => rw [byte_eq_nibbles b]
  apply BitVec.eq_of_toNat_eq
  simp only [BitVec.toNat_append, Nat.shiftLeft_or_distrib, Nat.or_assoc, ← Nat.shiftLeft_add]

/-- A nibble and an immediate are four nibbles. -/
theorem nibbles_of_imm12 (f : Nibble) (b : Imm12) :
    (f ++ b : Word) = f ++ b.extractLsb' 8 4 ++ b.extractLsb' 4 4 ++ b.extractLsb' 0 4 := by
  conv_lhs => rw [imm12_eq_nibbles b]
  apply BitVec.eq_of_toNat_eq
  simp only [BitVec.toNat_append, Nat.shiftLeft_or_distrib, Nat.or_assoc, ← Nat.shiftLeft_add]

/-- Two words are equal iff their four fields are. -/
theorem word_ext_iff (a b : Word) :
    a = b ↔ fieldF a = fieldF b ∧ fieldX a = fieldX b ∧ fieldY a = fieldY b ∧ fieldN a = fieldN b := by
  refine ⟨fun h => by simp [h], fun ⟨h1, h2, h3, h4⟩ => ?_⟩
  rw [word_eq_nibbles a, word_eq_nibbles b, h1, h2, h3, h4]

/-- Masking a word masks each field. -/
theorem field_and (a b : Word) :
    fieldF (a &&& b) = fieldF a &&& fieldF b ∧ fieldX (a &&& b) = fieldX a &&& fieldX b ∧
      fieldY (a &&& b) = fieldY a &&& fieldY b ∧ fieldN (a &&& b) = fieldN a &&& fieldN b := by
  simp only [fieldF, fieldX, fieldY, fieldN, nibble, BitVec.extractLsb'_and, and_self]

/-- `op & mask = match`, field by field (30_encoding.md R93). -/
theorem and_mask_eq_iff (op mask pattern : Word) :
    op &&& mask = pattern ↔ fieldF op &&& fieldF mask = fieldF pattern ∧ fieldX op &&& fieldX mask = fieldX pattern ∧
      fieldY op &&& fieldY mask = fieldY pattern ∧ fieldN op &&& fieldN mask = fieldN pattern := by
  obtain ⟨h1, h2, h3, h4⟩ := field_and op mask
  rw [word_ext_iff, h1, h2, h3, h4]

/-- The bytes of a word, put together again (20_memory.md R52). -/
@[simp] theorem wordOfBytes_highByte_lowByte (op : Word) : wordOfBytes (highByte op) (lowByte op) = op := by
  apply BitVec.eq_of_toNat_eq
  have := op.isLt
  simp only [wordOfBytes, highByte, lowByte, BitVec.toNat_append, BitVec.extractLsb'_toNat, Nat.shiftRight_eq_div_pow]
  rw [← Nat.shiftLeft_add_eq_or_of_lt (by omega)]
  omega

/-- Whether a word of nibbles selects a row, field by field (30_encoding.md R93). -/
theorem selects_nibbles (r : OpcodeRow) (f x y n : Nibble) :
    r.selects (f ++ x ++ y ++ n) =
      (f &&& fieldF r.mask == fieldF r.pattern && x &&& fieldX r.mask == fieldX r.pattern &&
        y &&& fieldY r.mask == fieldY r.pattern && n &&& fieldN r.mask == fieldN r.pattern && (!r.nNonzero || n != 0)) := by
  rw [OpcodeRow.selects, Bool.eq_iff_iff]
  simp only [Bool.and_eq_true, beq_iff_eq, and_mask_eq_iff, fieldF_nibbles, fieldX_nibbles, fieldY_nibbles,
    fieldN_nibbles]
  tauto

/-- No row looks at X (30_encoding.md R84 to R88). -/
theorem opcodeRows_ignore_x {r : OpcodeRow} (hr : r ∈ opcodeRows) : fieldX r.mask = 0 ∧ fieldX r.pattern = 0 := by
  have h : (opcodeRows.all fun r => fieldX r.mask == 0 && fieldX r.pattern == 0) = true := by decide
  simpa using List.all_eq_true.1 h r hr

/-- Row selection does not depend on X. -/
theorem selects_ignores_x {r : OpcodeRow} (hr : r ∈ opcodeRows) (f x y n : Nibble) :
    r.selects (f ++ x ++ y ++ n) = r.selects (f ++ 0#4 ++ y ++ n) := by
  simp [selects_nibbles, opcodeRows_ignore_x hr]

end Sys2Proof
end

