-- ==== Sys2Proof/Laws/State.lean ====
section
/-! SUPPORT. One lemma per field per update of State, true by `rfl`, so that no proof unfolds a record update. -/

namespace Sys2Proof.Machine

/-! #### `setPc` -/

@[simp] theorem State.setPc_regs (s : State) (p : Word) : (s.setPc p).regs = s.regs := rfl
@[simp] theorem State.setPc_index (s : State) (p : Word) : (s.setPc p).index = s.index := rfl
@[simp] theorem State.setPc_pc (s : State) (p : Word) : (s.setPc p).pc = p := rfl
@[simp] theorem State.setPc_stack (s : State) (p : Word) : (s.setPc p).stack = s.stack := rfl
@[simp] theorem State.setPc_dt (s : State) (p : Word) : (s.setPc p).dt = s.dt := rfl
@[simp] theorem State.setPc_st (s : State) (p : Word) : (s.setPc p).st = s.st := rfl
@[simp] theorem State.setPc_keys (s : State) (p : Word) : (s.setPc p).keys = s.keys := rfl
@[simp] theorem State.setPc_lock (s : State) (p : Word) : (s.setPc p).lock = s.lock := rfl
@[simp] theorem State.setPc_mem (s : State) (p : Word) : (s.setPc p).mem = s.mem := rfl
@[simp] theorem State.setPc_screen (s : State) (p : Word) : (s.setPc p).screen = s.screen := rfl
@[simp] theorem State.setPc_lastTick (s : State) (p : Word) : (s.setPc p).lastTick = s.lastTick := rfl
@[simp] theorem State.setPc_fault (s : State) (p : Word) : (s.setPc p).fault = s.fault := rfl
@[simp] theorem State.setPc_params (s : State) (p : Word) : (s.setPc p).params = s.params := rfl
@[simp] theorem State.setPc_now (s : State) (p : Word) : (s.setPc p).now = s.now := rfl
@[simp] theorem State.setPc_rnd (s : State) (p : Word) : (s.setPc p).rnd = s.rnd := rfl
@[simp] theorem State.setPc_draws (s : State) (p : Word) : (s.setPc p).draws = s.draws := rfl
@[simp] theorem State.setPc_schedule (s : State) (p : Word) : (s.setPc p).schedule = s.schedule := rfl
@[simp] theorem State.setPc_outputs (s : State) (p : Word) : (s.setPc p).outputs = s.outputs := rfl
@[simp] theorem State.setPc_v (s : State) (p : Word) (j : RegIdx) : (s.setPc p).v j = s.v j := rfl
@[simp] theorem State.setPc_readByte (s : State) (p : Word) (q : Nat) : (s.setPc p).readByte q = s.readByte q := rfl
@[simp] theorem State.setPc_key (s : State) (p : Word) (j : Nibble) : (s.setPc p).key j = s.key j := rfl

/-! #### `setIndex` -/

@[simp] theorem State.setIndex_regs (s : State) (p : Word) : (s.setIndex p).regs = s.regs := rfl
@[simp] theorem State.setIndex_index (s : State) (p : Word) : (s.setIndex p).index = p := rfl
@[simp] theorem State.setIndex_pc (s : State) (p : Word) : (s.setIndex p).pc = s.pc := rfl
@[simp] theorem State.setIndex_stack (s : State) (p : Word) : (s.setIndex p).stack = s.stack := rfl
@[simp] theorem State.setIndex_dt (s : State) (p : Word) : (s.setIndex p).dt = s.dt := rfl
@[simp] theorem State.setIndex_st (s : State) (p : Word) : (s.setIndex p).st = s.st := rfl
@[simp] theorem State.setIndex_keys (s : State) (p : Word) : (s.setIndex p).keys = s.keys := rfl
@[simp] theorem State.setIndex_lock (s : State) (p : Word) : (s.setIndex p).lock = s.lock := rfl
@[simp] theorem State.setIndex_mem (s : State) (p : Word) : (s.setIndex p).mem = s.mem := rfl
@[simp] theorem State.setIndex_screen (s : State) (p : Word) : (s.setIndex p).screen = s.screen := rfl
@[simp] theorem State.setIndex_lastTick (s : State) (p : Word) : (s.setIndex p).lastTick = s.lastTick := rfl
@[simp] theorem State.setIndex_fault (s : State) (p : Word) : (s.setIndex p).fault = s.fault := rfl
@[simp] theorem State.setIndex_params (s : State) (p : Word) : (s.setIndex p).params = s.params := rfl
@[simp] theorem State.setIndex_now (s : State) (p : Word) : (s.setIndex p).now = s.now := rfl
@[simp] theorem State.setIndex_rnd (s : State) (p : Word) : (s.setIndex p).rnd = s.rnd := rfl
@[simp] theorem State.setIndex_draws (s : State) (p : Word) : (s.setIndex p).draws = s.draws := rfl
@[simp] theorem State.setIndex_schedule (s : State) (p : Word) : (s.setIndex p).schedule = s.schedule := rfl
@[simp] theorem State.setIndex_outputs (s : State) (p : Word) : (s.setIndex p).outputs = s.outputs := rfl
@[simp] theorem State.setIndex_v (s : State) (p : Word) (j : RegIdx) : (s.setIndex p).v j = s.v j := rfl
@[simp] theorem State.setIndex_readByte (s : State) (p : Word) (q : Nat) : (s.setIndex p).readByte q = s.readByte q := rfl
@[simp] theorem State.setIndex_key (s : State) (p : Word) (j : Nibble) : (s.setIndex p).key j = s.key j := rfl
@[simp] theorem State.setIndex_opcodeAt (s : State) (p : Word) : (s.setIndex p).opcodeAt = s.opcodeAt := rfl

/-! #### `setStack` -/

@[simp] theorem State.setStack_regs (s : State) (p : List Word) : (s.setStack p).regs = s.regs := rfl
@[simp] theorem State.setStack_index (s : State) (p : List Word) : (s.setStack p).index = s.index := rfl
@[simp] theorem State.setStack_pc (s : State) (p : List Word) : (s.setStack p).pc = s.pc := rfl
@[simp] theorem State.setStack_stack (s : State) (p : List Word) : (s.setStack p).stack = p := rfl
@[simp] theorem State.setStack_dt (s : State) (p : List Word) : (s.setStack p).dt = s.dt := rfl
@[simp] theorem State.setStack_st (s : State) (p : List Word) : (s.setStack p).st = s.st := rfl
@[simp] theorem State.setStack_keys (s : State) (p : List Word) : (s.setStack p).keys = s.keys := rfl
@[simp] theorem State.setStack_lock (s : State) (p : List Word) : (s.setStack p).lock = s.lock := rfl
@[simp] theorem State.setStack_mem (s : State) (p : List Word) : (s.setStack p).mem = s.mem := rfl
@[simp] theorem State.setStack_screen (s : State) (p : List Word) : (s.setStack p).screen = s.screen := rfl
@[simp] theorem State.setStack_lastTick (s : State) (p : List Word) : (s.setStack p).lastTick = s.lastTick := rfl
@[simp] theorem State.setStack_fault (s : State) (p : List Word) : (s.setStack p).fault = s.fault := rfl
@[simp] theorem State.setStack_params (s : State) (p : List Word) : (s.setStack p).params = s.params := rfl
@[simp] theorem State.setStack_now (s : State) (p : List Word) : (s.setStack p).now = s.now := rfl
@[simp] theorem State.setStack_rnd (s : State) (p : List Word) : (s.setStack p).rnd = s.rnd := rfl
@[simp] theorem State.setStack_draws (s : State) (p : List Word) : (s.setStack p).draws = s.draws := rfl
@[simp] theorem State.setStack_schedule (s : State) (p : List Word) : (s.setStack p).schedule = s.schedule := rfl
@[simp] theorem State.setStack_outputs (s : State) (p : List Word) : (s.setStack p).outputs = s.outputs := rfl
@[simp] theorem State.setStack_v (s : State) (p : List Word) (j : RegIdx) : (s.setStack p).v j = s.v j := rfl
@[simp] theorem State.setStack_readByte (s : State) (p : List Word) (q : Nat) : (s.setStack p).readByte q = s.readByte q := rfl
@[simp] theorem State.setStack_key (s : State) (p : List Word) (j : Nibble) : (s.setStack p).key j = s.key j := rfl
@[simp] theorem State.setStack_opcodeAt (s : State) (p : List Word) : (s.setStack p).opcodeAt = s.opcodeAt := rfl

/-! #### `setSt` -/

@[simp] theorem State.setSt_regs (s : State) (p : Byte) : (s.setSt p).regs = s.regs := rfl
@[simp] theorem State.setSt_index (s : State) (p : Byte) : (s.setSt p).index = s.index := rfl
@[simp] theorem State.setSt_pc (s : State) (p : Byte) : (s.setSt p).pc = s.pc := rfl
@[simp] theorem State.setSt_stack (s : State) (p : Byte) : (s.setSt p).stack = s.stack := rfl
@[simp] theorem State.setSt_dt (s : State) (p : Byte) : (s.setSt p).dt = s.dt := rfl
@[simp] theorem State.setSt_st (s : State) (p : Byte) : (s.setSt p).st = p := rfl
@[simp] theorem State.setSt_keys (s : State) (p : Byte) : (s.setSt p).keys = s.keys := rfl
@[simp] theorem State.setSt_lock (s : State) (p : Byte) : (s.setSt p).lock = s.lock := rfl
@[simp] theorem State.setSt_mem (s : State) (p : Byte) : (s.setSt p).mem = s.mem := rfl
@[simp] theorem State.setSt_screen (s : State) (p : Byte) : (s.setSt p).screen = s.screen := rfl
@[simp] theorem State.setSt_lastTick (s : State) (p : Byte) : (s.setSt p).lastTick = s.lastTick := rfl
@[simp] theorem State.setSt_fault (s : State) (p : Byte) : (s.setSt p).fault = s.fault := rfl
@[simp] theorem State.setSt_params (s : State) (p : Byte) : (s.setSt p).params = s.params := rfl
@[simp] theorem State.setSt_now (s : State) (p : Byte) : (s.setSt p).now = s.now := rfl
@[simp] theorem State.setSt_rnd (s : State) (p : Byte) : (s.setSt p).rnd = s.rnd := rfl
@[simp] theorem State.setSt_draws (s : State) (p : Byte) : (s.setSt p).draws = s.draws := rfl
@[simp] theorem State.setSt_schedule (s : State) (p : Byte) : (s.setSt p).schedule = s.schedule := rfl
@[simp] theorem State.setSt_outputs (s : State) (p : Byte) : (s.setSt p).outputs = s.outputs := rfl
@[simp] theorem State.setSt_v (s : State) (p : Byte) (j : RegIdx) : (s.setSt p).v j = s.v j := rfl
@[simp] theorem State.setSt_readByte (s : State) (p : Byte) (q : Nat) : (s.setSt p).readByte q = s.readByte q := rfl
@[simp] theorem State.setSt_key (s : State) (p : Byte) (j : Nibble) : (s.setSt p).key j = s.key j := rfl
@[simp] theorem State.setSt_opcodeAt (s : State) (p : Byte) : (s.setSt p).opcodeAt = s.opcodeAt := rfl

/-! #### `setKeys` -/

@[simp] theorem State.setKeys_regs (s : State) (p : Vector Bool 16) : (s.setKeys p).regs = s.regs := rfl
@[simp] theorem State.setKeys_index (s : State) (p : Vector Bool 16) : (s.setKeys p).index = s.index := rfl
@[simp] theorem State.setKeys_pc (s : State) (p : Vector Bool 16) : (s.setKeys p).pc = s.pc := rfl
@[simp] theorem State.setKeys_stack (s : State) (p : Vector Bool 16) : (s.setKeys p).stack = s.stack := rfl
@[simp] theorem State.setKeys_dt (s : State) (p : Vector Bool 16) : (s.setKeys p).dt = s.dt := rfl
@[simp] theorem State.setKeys_st (s : State) (p : Vector Bool 16) : (s.setKeys p).st = s.st := rfl
@[simp] theorem State.setKeys_keys (s : State) (p : Vector Bool 16) : (s.setKeys p).keys = p := rfl
@[simp] theorem State.setKeys_lock (s : State) (p : Vector Bool 16) : (s.setKeys p).lock = s.lock := rfl
@[simp] theorem State.setKeys_mem (s : State) (p : Vector Bool 16) : (s.setKeys p).mem = s.mem := rfl
@[simp] theorem State.setKeys_screen (s : State) (p : Vector Bool 16) : (s.setKeys p).screen = s.screen := rfl
@[simp] theorem State.setKeys_lastTick (s : State) (p : Vector Bool 16) : (s.setKeys p).lastTick = s.lastTick := rfl
@[simp] theorem State.setKeys_fault (s : State) (p : Vector Bool 16) : (s.setKeys p).fault = s.fault := rfl
@[simp] theorem State.setKeys_params (s : State) (p : Vector Bool 16) : (s.setKeys p).params = s.params := rfl
@[simp] theorem State.setKeys_now (s : State) (p : Vector Bool 16) : (s.setKeys p).now = s.now := rfl
@[simp] theorem State.setKeys_rnd (s : State) (p : Vector Bool 16) : (s.setKeys p).rnd = s.rnd := rfl
@[simp] theorem State.setKeys_draws (s : State) (p : Vector Bool 16) : (s.setKeys p).draws = s.draws := rfl
@[simp] theorem State.setKeys_schedule (s : State) (p : Vector Bool 16) : (s.setKeys p).schedule = s.schedule := rfl
@[simp] theorem State.setKeys_outputs (s : State) (p : Vector Bool 16) : (s.setKeys p).outputs = s.outputs := rfl
@[simp] theorem State.setKeys_v (s : State) (p : Vector Bool 16) (j : RegIdx) : (s.setKeys p).v j = s.v j := rfl
@[simp] theorem State.setKeys_readByte (s : State) (p : Vector Bool 16) (q : Nat) : (s.setKeys p).readByte q = s.readByte q := rfl
@[simp] theorem State.setKeys_opcodeAt (s : State) (p : Vector Bool 16) : (s.setKeys p).opcodeAt = s.opcodeAt := rfl

/-! #### `setLock` -/

@[simp] theorem State.setLock_regs (s : State) (p : InputLock) : (s.setLock p).regs = s.regs := rfl
@[simp] theorem State.setLock_index (s : State) (p : InputLock) : (s.setLock p).index = s.index := rfl
@[simp] theorem State.setLock_pc (s : State) (p : InputLock) : (s.setLock p).pc = s.pc := rfl
@[simp] theorem State.setLock_stack (s : State) (p : InputLock) : (s.setLock p).stack = s.stack := rfl
@[simp] theorem State.setLock_dt (s : State) (p : InputLock) : (s.setLock p).dt = s.dt := rfl
@[simp] theorem State.setLock_st (s : State) (p : InputLock) : (s.setLock p).st = s.st := rfl
@[simp] theorem State.setLock_keys (s : State) (p : InputLock) : (s.setLock p).keys = s.keys := rfl
@[simp] theorem State.setLock_lock (s : State) (p : InputLock) : (s.setLock p).lock = p := rfl
@[simp] theorem State.setLock_mem (s : State) (p : InputLock) : (s.setLock p).mem = s.mem := rfl
@[simp] theorem State.setLock_screen (s : State) (p : InputLock) : (s.setLock p).screen = s.screen := rfl
@[simp] theorem State.setLock_lastTick (s : State) (p : InputLock) : (s.setLock p).lastTick = s.lastTick := rfl
@[simp] theorem State.setLock_fault (s : State) (p : InputLock) : (s.setLock p).fault = s.fault := rfl
@[simp] theorem State.setLock_params (s : State) (p : InputLock) : (s.setLock p).params = s.params := rfl
@[simp] theorem State.setLock_now (s : State) (p : InputLock) : (s.setLock p).now = s.now := rfl
@[simp] theorem State.setLock_rnd (s : State) (p : InputLock) : (s.setLock p).rnd = s.rnd := rfl
@[simp] theorem State.setLock_draws (s : State) (p : InputLock) : (s.setLock p).draws = s.draws := rfl
@[simp] theorem State.setLock_schedule (s : State) (p : InputLock) : (s.setLock p).schedule = s.schedule := rfl
@[simp] theorem State.setLock_outputs (s : State) (p : InputLock) : (s.setLock p).outputs = s.outputs := rfl
@[simp] theorem State.setLock_v (s : State) (p : InputLock) (j : RegIdx) : (s.setLock p).v j = s.v j := rfl
@[simp] theorem State.setLock_readByte (s : State) (p : InputLock) (q : Nat) : (s.setLock p).readByte q = s.readByte q := rfl
@[simp] theorem State.setLock_key (s : State) (p : InputLock) (j : Nibble) : (s.setLock p).key j = s.key j := rfl
@[simp] theorem State.setLock_opcodeAt (s : State) (p : InputLock) : (s.setLock p).opcodeAt = s.opcodeAt := rfl

/-! #### `setMem` -/

@[simp] theorem State.setMem_regs (s : State) (p : Memory) : (s.setMem p).regs = s.regs := rfl
@[simp] theorem State.setMem_index (s : State) (p : Memory) : (s.setMem p).index = s.index := rfl
@[simp] theorem State.setMem_pc (s : State) (p : Memory) : (s.setMem p).pc = s.pc := rfl
@[simp] theorem State.setMem_stack (s : State) (p : Memory) : (s.setMem p).stack = s.stack := rfl
@[simp] theorem State.setMem_dt (s : State) (p : Memory) : (s.setMem p).dt = s.dt := rfl
@[simp] theorem State.setMem_st (s : State) (p : Memory) : (s.setMem p).st = s.st := rfl
@[simp] theorem State.setMem_keys (s : State) (p : Memory) : (s.setMem p).keys = s.keys := rfl
@[simp] theorem State.setMem_lock (s : State) (p : Memory) : (s.setMem p).lock = s.lock := rfl
@[simp] theorem State.setMem_mem (s : State) (p : Memory) : (s.setMem p).mem = p := rfl
@[simp] theorem State.setMem_screen (s : State) (p : Memory) : (s.setMem p).screen = s.screen := rfl
@[simp] theorem State.setMem_lastTick (s : State) (p : Memory) : (s.setMem p).lastTick = s.lastTick := rfl
@[simp] theorem State.setMem_fault (s : State) (p : Memory) : (s.setMem p).fault = s.fault := rfl
@[simp] theorem State.setMem_params (s : State) (p : Memory) : (s.setMem p).params = s.params := rfl
@[simp] theorem State.setMem_now (s : State) (p : Memory) : (s.setMem p).now = s.now := rfl
@[simp] theorem State.setMem_rnd (s : State) (p : Memory) : (s.setMem p).rnd = s.rnd := rfl
@[simp] theorem State.setMem_draws (s : State) (p : Memory) : (s.setMem p).draws = s.draws := rfl
@[simp] theorem State.setMem_schedule (s : State) (p : Memory) : (s.setMem p).schedule = s.schedule := rfl
@[simp] theorem State.setMem_outputs (s : State) (p : Memory) : (s.setMem p).outputs = s.outputs := rfl
@[simp] theorem State.setMem_v (s : State) (p : Memory) (j : RegIdx) : (s.setMem p).v j = s.v j := rfl
@[simp] theorem State.setMem_key (s : State) (p : Memory) (j : Nibble) : (s.setMem p).key j = s.key j := rfl

/-! #### `setScreen` -/

@[simp] theorem State.setScreen_regs (s : State) (p : Screen) : (s.setScreen p).regs = s.regs := rfl
@[simp] theorem State.setScreen_index (s : State) (p : Screen) : (s.setScreen p).index = s.index := rfl
@[simp] theorem State.setScreen_pc (s : State) (p : Screen) : (s.setScreen p).pc = s.pc := rfl
@[simp] theorem State.setScreen_stack (s : State) (p : Screen) : (s.setScreen p).stack = s.stack := rfl
@[simp] theorem State.setScreen_dt (s : State) (p : Screen) : (s.setScreen p).dt = s.dt := rfl
@[simp] theorem State.setScreen_st (s : State) (p : Screen) : (s.setScreen p).st = s.st := rfl
@[simp] theorem State.setScreen_keys (s : State) (p : Screen) : (s.setScreen p).keys = s.keys := rfl
@[simp] theorem State.setScreen_lock (s : State) (p : Screen) : (s.setScreen p).lock = s.lock := rfl
@[simp] theorem State.setScreen_mem (s : State) (p : Screen) : (s.setScreen p).mem = s.mem := rfl
@[simp] theorem State.setScreen_screen (s : State) (p : Screen) : (s.setScreen p).screen = p := rfl
@[simp] theorem State.setScreen_lastTick (s : State) (p : Screen) : (s.setScreen p).lastTick = s.lastTick := rfl
@[simp] theorem State.setScreen_fault (s : State) (p : Screen) : (s.setScreen p).fault = s.fault := rfl
@[simp] theorem State.setScreen_params (s : State) (p : Screen) : (s.setScreen p).params = s.params := rfl
@[simp] theorem State.setScreen_now (s : State) (p : Screen) : (s.setScreen p).now = s.now := rfl
@[simp] theorem State.setScreen_rnd (s : State) (p : Screen) : (s.setScreen p).rnd = s.rnd := rfl
@[simp] theorem State.setScreen_draws (s : State) (p : Screen) : (s.setScreen p).draws = s.draws := rfl
@[simp] theorem State.setScreen_schedule (s : State) (p : Screen) : (s.setScreen p).schedule = s.schedule := rfl
@[simp] theorem State.setScreen_outputs (s : State) (p : Screen) : (s.setScreen p).outputs = s.outputs := rfl
@[simp] theorem State.setScreen_v (s : State) (p : Screen) (j : RegIdx) : (s.setScreen p).v j = s.v j := rfl
@[simp] theorem State.setScreen_readByte (s : State) (p : Screen) (q : Nat) : (s.setScreen p).readByte q = s.readByte q := rfl
@[simp] theorem State.setScreen_key (s : State) (p : Screen) (j : Nibble) : (s.setScreen p).key j = s.key j := rfl
@[simp] theorem State.setScreen_opcodeAt (s : State) (p : Screen) : (s.setScreen p).opcodeAt = s.opcodeAt := rfl

/-! #### `setFault` -/

@[simp] theorem State.setFault_regs (s : State) (p : FaultRecord) : (s.setFault p).regs = s.regs := rfl
@[simp] theorem State.setFault_index (s : State) (p : FaultRecord) : (s.setFault p).index = s.index := rfl
@[simp] theorem State.setFault_pc (s : State) (p : FaultRecord) : (s.setFault p).pc = s.pc := rfl
@[simp] theorem State.setFault_stack (s : State) (p : FaultRecord) : (s.setFault p).stack = s.stack := rfl
@[simp] theorem State.setFault_dt (s : State) (p : FaultRecord) : (s.setFault p).dt = s.dt := rfl
@[simp] theorem State.setFault_st (s : State) (p : FaultRecord) : (s.setFault p).st = s.st := rfl
@[simp] theorem State.setFault_keys (s : State) (p : FaultRecord) : (s.setFault p).keys = s.keys := rfl
@[simp] theorem State.setFault_lock (s : State) (p : FaultRecord) : (s.setFault p).lock = s.lock := rfl
@[simp] theorem State.setFault_mem (s : State) (p : FaultRecord) : (s.setFault p).mem = s.mem := rfl
@[simp] theorem State.setFault_screen (s : State) (p : FaultRecord) : (s.setFault p).screen = s.screen := rfl
@[simp] theorem State.setFault_lastTick (s : State) (p : FaultRecord) : (s.setFault p).lastTick = s.lastTick := rfl
@[simp] theorem State.setFault_fault (s : State) (p : FaultRecord) : (s.setFault p).fault = p := rfl
@[simp] theorem State.setFault_params (s : State) (p : FaultRecord) : (s.setFault p).params = s.params := rfl
@[simp] theorem State.setFault_now (s : State) (p : FaultRecord) : (s.setFault p).now = s.now := rfl
@[simp] theorem State.setFault_rnd (s : State) (p : FaultRecord) : (s.setFault p).rnd = s.rnd := rfl
@[simp] theorem State.setFault_draws (s : State) (p : FaultRecord) : (s.setFault p).draws = s.draws := rfl
@[simp] theorem State.setFault_schedule (s : State) (p : FaultRecord) : (s.setFault p).schedule = s.schedule := rfl
@[simp] theorem State.setFault_outputs (s : State) (p : FaultRecord) : (s.setFault p).outputs = s.outputs := rfl
@[simp] theorem State.setFault_v (s : State) (p : FaultRecord) (j : RegIdx) : (s.setFault p).v j = s.v j := rfl
@[simp] theorem State.setFault_readByte (s : State) (p : FaultRecord) (q : Nat) : (s.setFault p).readByte q = s.readByte q := rfl
@[simp] theorem State.setFault_key (s : State) (p : FaultRecord) (j : Nibble) : (s.setFault p).key j = s.key j := rfl
@[simp] theorem State.setFault_opcodeAt (s : State) (p : FaultRecord) : (s.setFault p).opcodeAt = s.opcodeAt := rfl

/-! #### `setTimers` -/

@[simp] theorem State.setTimers_regs (s : State) (d e : Byte) (l : Nat) : (s.setTimers d e l).regs = s.regs := rfl
@[simp] theorem State.setTimers_index (s : State) (d e : Byte) (l : Nat) : (s.setTimers d e l).index = s.index := rfl
@[simp] theorem State.setTimers_pc (s : State) (d e : Byte) (l : Nat) : (s.setTimers d e l).pc = s.pc := rfl
@[simp] theorem State.setTimers_stack (s : State) (d e : Byte) (l : Nat) : (s.setTimers d e l).stack = s.stack := rfl
@[simp] theorem State.setTimers_dt (s : State) (d e : Byte) (l : Nat) : (s.setTimers d e l).dt = d := rfl
@[simp] theorem State.setTimers_st (s : State) (d e : Byte) (l : Nat) : (s.setTimers d e l).st = e := rfl
@[simp] theorem State.setTimers_keys (s : State) (d e : Byte) (l : Nat) : (s.setTimers d e l).keys = s.keys := rfl
@[simp] theorem State.setTimers_lock (s : State) (d e : Byte) (l : Nat) : (s.setTimers d e l).lock = s.lock := rfl
@[simp] theorem State.setTimers_mem (s : State) (d e : Byte) (l : Nat) : (s.setTimers d e l).mem = s.mem := rfl
@[simp] theorem State.setTimers_screen (s : State) (d e : Byte) (l : Nat) : (s.setTimers d e l).screen = s.screen := rfl
@[simp] theorem State.setTimers_lastTick (s : State) (d e : Byte) (l : Nat) : (s.setTimers d e l).lastTick = l := rfl
@[simp] theorem State.setTimers_fault (s : State) (d e : Byte) (l : Nat) : (s.setTimers d e l).fault = s.fault := rfl
@[simp] theorem State.setTimers_params (s : State) (d e : Byte) (l : Nat) : (s.setTimers d e l).params = s.params := rfl
@[simp] theorem State.setTimers_now (s : State) (d e : Byte) (l : Nat) : (s.setTimers d e l).now = s.now := rfl
@[simp] theorem State.setTimers_rnd (s : State) (d e : Byte) (l : Nat) : (s.setTimers d e l).rnd = s.rnd := rfl
@[simp] theorem State.setTimers_draws (s : State) (d e : Byte) (l : Nat) : (s.setTimers d e l).draws = s.draws := rfl
@[simp] theorem State.setTimers_schedule (s : State) (d e : Byte) (l : Nat) : (s.setTimers d e l).schedule = s.schedule := rfl
@[simp] theorem State.setTimers_outputs (s : State) (d e : Byte) (l : Nat) : (s.setTimers d e l).outputs = s.outputs := rfl
@[simp] theorem State.setTimers_v (s : State) (d e : Byte) (l : Nat) (j : RegIdx) : (s.setTimers d e l).v j = s.v j := rfl
@[simp] theorem State.setTimers_readByte (s : State) (d e : Byte) (l : Nat) (q : Nat) : (s.setTimers d e l).readByte q = s.readByte q := rfl
@[simp] theorem State.setTimers_key (s : State) (d e : Byte) (l : Nat) (j : Nibble) : (s.setTimers d e l).key j = s.key j := rfl
@[simp] theorem State.setTimers_opcodeAt (s : State) (d e : Byte) (l : Nat) : (s.setTimers d e l).opcodeAt = s.opcodeAt := rfl

/-! #### `latch` -/

@[simp] theorem State.latch_regs (s : State) (n : Nat) (r : Byte) : (s.latch n r).regs = s.regs := rfl
@[simp] theorem State.latch_index (s : State) (n : Nat) (r : Byte) : (s.latch n r).index = s.index := rfl
@[simp] theorem State.latch_pc (s : State) (n : Nat) (r : Byte) : (s.latch n r).pc = s.pc := rfl
@[simp] theorem State.latch_stack (s : State) (n : Nat) (r : Byte) : (s.latch n r).stack = s.stack := rfl
@[simp] theorem State.latch_dt (s : State) (n : Nat) (r : Byte) : (s.latch n r).dt = s.dt := rfl
@[simp] theorem State.latch_st (s : State) (n : Nat) (r : Byte) : (s.latch n r).st = s.st := rfl
@[simp] theorem State.latch_keys (s : State) (n : Nat) (r : Byte) : (s.latch n r).keys = s.keys := rfl
@[simp] theorem State.latch_lock (s : State) (n : Nat) (r : Byte) : (s.latch n r).lock = s.lock := rfl
@[simp] theorem State.latch_mem (s : State) (n : Nat) (r : Byte) : (s.latch n r).mem = s.mem := rfl
@[simp] theorem State.latch_screen (s : State) (n : Nat) (r : Byte) : (s.latch n r).screen = s.screen := rfl
@[simp] theorem State.latch_lastTick (s : State) (n : Nat) (r : Byte) : (s.latch n r).lastTick = s.lastTick := rfl
@[simp] theorem State.latch_fault (s : State) (n : Nat) (r : Byte) : (s.latch n r).fault = s.fault := rfl
@[simp] theorem State.latch_params (s : State) (n : Nat) (r : Byte) : (s.latch n r).params = s.params := rfl
@[simp] theorem State.latch_now (s : State) (n : Nat) (r : Byte) : (s.latch n r).now = n := rfl
@[simp] theorem State.latch_rnd (s : State) (n : Nat) (r : Byte) : (s.latch n r).rnd = r := rfl
@[simp] theorem State.latch_draws (s : State) (n : Nat) (r : Byte) : (s.latch n r).draws = s.draws := rfl
@[simp] theorem State.latch_schedule (s : State) (n : Nat) (r : Byte) : (s.latch n r).schedule = s.schedule := rfl
@[simp] theorem State.latch_outputs (s : State) (n : Nat) (r : Byte) : (s.latch n r).outputs = s.outputs := rfl
@[simp] theorem State.latch_v (s : State) (n : Nat) (r : Byte) (j : RegIdx) : (s.latch n r).v j = s.v j := rfl
@[simp] theorem State.latch_readByte (s : State) (n : Nat) (r : Byte) (q : Nat) : (s.latch n r).readByte q = s.readByte q := rfl
@[simp] theorem State.latch_key (s : State) (n : Nat) (r : Byte) (j : Nibble) : (s.latch n r).key j = s.key j := rfl
@[simp] theorem State.latch_opcodeAt (s : State) (n : Nat) (r : Byte) : (s.latch n r).opcodeAt = s.opcodeAt := rfl

/-! #### `countDraw` -/

@[simp] theorem State.countDraw_regs (s : State) : (s.countDraw).regs = s.regs := rfl
@[simp] theorem State.countDraw_index (s : State) : (s.countDraw).index = s.index := rfl
@[simp] theorem State.countDraw_pc (s : State) : (s.countDraw).pc = s.pc := rfl
@[simp] theorem State.countDraw_stack (s : State) : (s.countDraw).stack = s.stack := rfl
@[simp] theorem State.countDraw_dt (s : State) : (s.countDraw).dt = s.dt := rfl
@[simp] theorem State.countDraw_st (s : State) : (s.countDraw).st = s.st := rfl
@[simp] theorem State.countDraw_keys (s : State) : (s.countDraw).keys = s.keys := rfl
@[simp] theorem State.countDraw_lock (s : State) : (s.countDraw).lock = s.lock := rfl
@[simp] theorem State.countDraw_mem (s : State) : (s.countDraw).mem = s.mem := rfl
@[simp] theorem State.countDraw_screen (s : State) : (s.countDraw).screen = s.screen := rfl
@[simp] theorem State.countDraw_lastTick (s : State) : (s.countDraw).lastTick = s.lastTick := rfl
@[simp] theorem State.countDraw_fault (s : State) : (s.countDraw).fault = s.fault := rfl
@[simp] theorem State.countDraw_params (s : State) : (s.countDraw).params = s.params := rfl
@[simp] theorem State.countDraw_now (s : State) : (s.countDraw).now = s.now := rfl
@[simp] theorem State.countDraw_rnd (s : State) : (s.countDraw).rnd = s.rnd := rfl
@[simp] theorem State.countDraw_draws (s : State) : (s.countDraw).draws = s.draws + 1 := rfl
@[simp] theorem State.countDraw_schedule (s : State) : (s.countDraw).schedule = s.schedule := rfl
@[simp] theorem State.countDraw_outputs (s : State) : (s.countDraw).outputs = s.outputs := rfl
@[simp] theorem State.countDraw_v (s : State) (j : RegIdx) : (s.countDraw).v j = s.v j := rfl
@[simp] theorem State.countDraw_readByte (s : State) (q : Nat) : (s.countDraw).readByte q = s.readByte q := rfl
@[simp] theorem State.countDraw_key (s : State) (j : Nibble) : (s.countDraw).key j = s.key j := rfl
@[simp] theorem State.countDraw_opcodeAt (s : State) : (s.countDraw).opcodeAt = s.opcodeAt := rfl

/-! #### `setSchedule` -/

@[simp] theorem State.setSchedule_regs (s : State) (p : List Transaction) : (s.setSchedule p).regs = s.regs := rfl
@[simp] theorem State.setSchedule_index (s : State) (p : List Transaction) : (s.setSchedule p).index = s.index := rfl
@[simp] theorem State.setSchedule_pc (s : State) (p : List Transaction) : (s.setSchedule p).pc = s.pc := rfl
@[simp] theorem State.setSchedule_stack (s : State) (p : List Transaction) : (s.setSchedule p).stack = s.stack := rfl
@[simp] theorem State.setSchedule_dt (s : State) (p : List Transaction) : (s.setSchedule p).dt = s.dt := rfl
@[simp] theorem State.setSchedule_st (s : State) (p : List Transaction) : (s.setSchedule p).st = s.st := rfl
@[simp] theorem State.setSchedule_keys (s : State) (p : List Transaction) : (s.setSchedule p).keys = s.keys := rfl
@[simp] theorem State.setSchedule_lock (s : State) (p : List Transaction) : (s.setSchedule p).lock = s.lock := rfl
@[simp] theorem State.setSchedule_mem (s : State) (p : List Transaction) : (s.setSchedule p).mem = s.mem := rfl
@[simp] theorem State.setSchedule_screen (s : State) (p : List Transaction) : (s.setSchedule p).screen = s.screen := rfl
@[simp] theorem State.setSchedule_lastTick (s : State) (p : List Transaction) : (s.setSchedule p).lastTick = s.lastTick := rfl
@[simp] theorem State.setSchedule_fault (s : State) (p : List Transaction) : (s.setSchedule p).fault = s.fault := rfl
@[simp] theorem State.setSchedule_params (s : State) (p : List Transaction) : (s.setSchedule p).params = s.params := rfl
@[simp] theorem State.setSchedule_now (s : State) (p : List Transaction) : (s.setSchedule p).now = s.now := rfl
@[simp] theorem State.setSchedule_rnd (s : State) (p : List Transaction) : (s.setSchedule p).rnd = s.rnd := rfl
@[simp] theorem State.setSchedule_draws (s : State) (p : List Transaction) : (s.setSchedule p).draws = s.draws := rfl
@[simp] theorem State.setSchedule_schedule (s : State) (p : List Transaction) : (s.setSchedule p).schedule = p := rfl
@[simp] theorem State.setSchedule_outputs (s : State) (p : List Transaction) : (s.setSchedule p).outputs = s.outputs := rfl
@[simp] theorem State.setSchedule_v (s : State) (p : List Transaction) (j : RegIdx) : (s.setSchedule p).v j = s.v j := rfl
@[simp] theorem State.setSchedule_readByte (s : State) (p : List Transaction) (q : Nat) : (s.setSchedule p).readByte q = s.readByte q := rfl
@[simp] theorem State.setSchedule_key (s : State) (p : List Transaction) (j : Nibble) : (s.setSchedule p).key j = s.key j := rfl
@[simp] theorem State.setSchedule_opcodeAt (s : State) (p : List Transaction) : (s.setSchedule p).opcodeAt = s.opcodeAt := rfl

/-! #### `emit` -/

@[simp] theorem State.emit_regs (s : State) (o : Output) : (s.emit o).regs = s.regs := rfl
@[simp] theorem State.emit_index (s : State) (o : Output) : (s.emit o).index = s.index := rfl
@[simp] theorem State.emit_pc (s : State) (o : Output) : (s.emit o).pc = s.pc := rfl
@[simp] theorem State.emit_stack (s : State) (o : Output) : (s.emit o).stack = s.stack := rfl
@[simp] theorem State.emit_dt (s : State) (o : Output) : (s.emit o).dt = s.dt := rfl
@[simp] theorem State.emit_st (s : State) (o : Output) : (s.emit o).st = s.st := rfl
@[simp] theorem State.emit_keys (s : State) (o : Output) : (s.emit o).keys = s.keys := rfl
@[simp] theorem State.emit_lock (s : State) (o : Output) : (s.emit o).lock = s.lock := rfl
@[simp] theorem State.emit_mem (s : State) (o : Output) : (s.emit o).mem = s.mem := rfl
@[simp] theorem State.emit_screen (s : State) (o : Output) : (s.emit o).screen = s.screen := rfl
@[simp] theorem State.emit_lastTick (s : State) (o : Output) : (s.emit o).lastTick = s.lastTick := rfl
@[simp] theorem State.emit_fault (s : State) (o : Output) : (s.emit o).fault = s.fault := rfl
@[simp] theorem State.emit_params (s : State) (o : Output) : (s.emit o).params = s.params := rfl
@[simp] theorem State.emit_now (s : State) (o : Output) : (s.emit o).now = s.now := rfl
@[simp] theorem State.emit_rnd (s : State) (o : Output) : (s.emit o).rnd = s.rnd := rfl
@[simp] theorem State.emit_draws (s : State) (o : Output) : (s.emit o).draws = s.draws := rfl
@[simp] theorem State.emit_schedule (s : State) (o : Output) : (s.emit o).schedule = s.schedule := rfl
@[simp] theorem State.emit_outputs (s : State) (o : Output) : (s.emit o).outputs = o :: s.outputs := rfl
@[simp] theorem State.emit_v (s : State) (o : Output) (j : RegIdx) : (s.emit o).v j = s.v j := rfl
@[simp] theorem State.emit_readByte (s : State) (o : Output) (q : Nat) : (s.emit o).readByte q = s.readByte q := rfl
@[simp] theorem State.emit_key (s : State) (o : Output) (j : Nibble) : (s.emit o).key j = s.key j := rfl
@[simp] theorem State.emit_opcodeAt (s : State) (o : Output) : (s.emit o).opcodeAt = s.opcodeAt := rfl

/-! #### `setV` -/

@[simp] theorem State.setV_index (s : State) (x : RegIdx) (b : Byte) : (s.setV x b).index = s.index := rfl
@[simp] theorem State.setV_pc (s : State) (x : RegIdx) (b : Byte) : (s.setV x b).pc = s.pc := rfl
@[simp] theorem State.setV_stack (s : State) (x : RegIdx) (b : Byte) : (s.setV x b).stack = s.stack := rfl
@[simp] theorem State.setV_dt (s : State) (x : RegIdx) (b : Byte) : (s.setV x b).dt = s.dt := rfl
@[simp] theorem State.setV_st (s : State) (x : RegIdx) (b : Byte) : (s.setV x b).st = s.st := rfl
@[simp] theorem State.setV_keys (s : State) (x : RegIdx) (b : Byte) : (s.setV x b).keys = s.keys := rfl
@[simp] theorem State.setV_lock (s : State) (x : RegIdx) (b : Byte) : (s.setV x b).lock = s.lock := rfl
@[simp] theorem State.setV_mem (s : State) (x : RegIdx) (b : Byte) : (s.setV x b).mem = s.mem := rfl
@[simp] theorem State.setV_screen (s : State) (x : RegIdx) (b : Byte) : (s.setV x b).screen = s.screen := rfl
@[simp] theorem State.setV_lastTick (s : State) (x : RegIdx) (b : Byte) : (s.setV x b).lastTick = s.lastTick := rfl
@[simp] theorem State.setV_fault (s : State) (x : RegIdx) (b : Byte) : (s.setV x b).fault = s.fault := rfl
@[simp] theorem State.setV_params (s : State) (x : RegIdx) (b : Byte) : (s.setV x b).params = s.params := rfl
@[simp] theorem State.setV_now (s : State) (x : RegIdx) (b : Byte) : (s.setV x b).now = s.now := rfl
@[simp] theorem State.setV_rnd (s : State) (x : RegIdx) (b : Byte) : (s.setV x b).rnd = s.rnd := rfl
@[simp] theorem State.setV_draws (s : State) (x : RegIdx) (b : Byte) : (s.setV x b).draws = s.draws := rfl
@[simp] theorem State.setV_schedule (s : State) (x : RegIdx) (b : Byte) : (s.setV x b).schedule = s.schedule := rfl
@[simp] theorem State.setV_outputs (s : State) (x : RegIdx) (b : Byte) : (s.setV x b).outputs = s.outputs := rfl
@[simp] theorem State.setV_readByte (s : State) (x : RegIdx) (b : Byte) (q : Nat) : (s.setV x b).readByte q = s.readByte q := rfl
@[simp] theorem State.setV_key (s : State) (x : RegIdx) (b : Byte) (j : Nibble) : (s.setV x b).key j = s.key j := rfl
@[simp] theorem State.setV_opcodeAt (s : State) (x : RegIdx) (b : Byte) : (s.setV x b).opcodeAt = s.opcodeAt := rfl

/-! #### `advance` -/

@[simp] theorem State.advance_regs (s : State) : (s.advance).regs = s.regs := rfl
@[simp] theorem State.advance_index (s : State) : (s.advance).index = s.index := rfl
@[simp] theorem State.advance_pc (s : State) : (s.advance).pc = s.pc + 2 := rfl
@[simp] theorem State.advance_stack (s : State) : (s.advance).stack = s.stack := rfl
@[simp] theorem State.advance_dt (s : State) : (s.advance).dt = s.dt := rfl
@[simp] theorem State.advance_st (s : State) : (s.advance).st = s.st := rfl
@[simp] theorem State.advance_keys (s : State) : (s.advance).keys = s.keys := rfl
@[simp] theorem State.advance_lock (s : State) : (s.advance).lock = s.lock := rfl
@[simp] theorem State.advance_mem (s : State) : (s.advance).mem = s.mem := rfl
@[simp] theorem State.advance_screen (s : State) : (s.advance).screen = s.screen := rfl
@[simp] theorem State.advance_lastTick (s : State) : (s.advance).lastTick = s.lastTick := rfl
@[simp] theorem State.advance_fault (s : State) : (s.advance).fault = s.fault := rfl
@[simp] theorem State.advance_params (s : State) : (s.advance).params = s.params := rfl
@[simp] theorem State.advance_now (s : State) : (s.advance).now = s.now := rfl
@[simp] theorem State.advance_rnd (s : State) : (s.advance).rnd = s.rnd := rfl
@[simp] theorem State.advance_draws (s : State) : (s.advance).draws = s.draws := rfl
@[simp] theorem State.advance_schedule (s : State) : (s.advance).schedule = s.schedule := rfl
@[simp] theorem State.advance_outputs (s : State) : (s.advance).outputs = s.outputs := rfl
@[simp] theorem State.advance_v (s : State) (j : RegIdx) : (s.advance).v j = s.v j := rfl
@[simp] theorem State.advance_readByte (s : State) (q : Nat) : (s.advance).readByte q = s.readByte q := rfl
@[simp] theorem State.advance_key (s : State) (j : Nibble) : (s.advance).key j = s.key j := rfl

/-! #### `jumpTo` -/

@[simp] theorem State.jumpTo_regs (s : State) (p : Word) : (s.jumpTo p).regs = s.regs := rfl
@[simp] theorem State.jumpTo_index (s : State) (p : Word) : (s.jumpTo p).index = s.index := rfl
@[simp] theorem State.jumpTo_pc (s : State) (p : Word) : (s.jumpTo p).pc = p - 2 := rfl
@[simp] theorem State.jumpTo_stack (s : State) (p : Word) : (s.jumpTo p).stack = s.stack := rfl
@[simp] theorem State.jumpTo_dt (s : State) (p : Word) : (s.jumpTo p).dt = s.dt := rfl
@[simp] theorem State.jumpTo_st (s : State) (p : Word) : (s.jumpTo p).st = s.st := rfl
@[simp] theorem State.jumpTo_keys (s : State) (p : Word) : (s.jumpTo p).keys = s.keys := rfl
@[simp] theorem State.jumpTo_lock (s : State) (p : Word) : (s.jumpTo p).lock = s.lock := rfl
@[simp] theorem State.jumpTo_mem (s : State) (p : Word) : (s.jumpTo p).mem = s.mem := rfl
@[simp] theorem State.jumpTo_screen (s : State) (p : Word) : (s.jumpTo p).screen = s.screen := rfl
@[simp] theorem State.jumpTo_lastTick (s : State) (p : Word) : (s.jumpTo p).lastTick = s.lastTick := rfl
@[simp] theorem State.jumpTo_fault (s : State) (p : Word) : (s.jumpTo p).fault = s.fault := rfl
@[simp] theorem State.jumpTo_params (s : State) (p : Word) : (s.jumpTo p).params = s.params := rfl
@[simp] theorem State.jumpTo_now (s : State) (p : Word) : (s.jumpTo p).now = s.now := rfl
@[simp] theorem State.jumpTo_rnd (s : State) (p : Word) : (s.jumpTo p).rnd = s.rnd := rfl
@[simp] theorem State.jumpTo_draws (s : State) (p : Word) : (s.jumpTo p).draws = s.draws := rfl
@[simp] theorem State.jumpTo_schedule (s : State) (p : Word) : (s.jumpTo p).schedule = s.schedule := rfl
@[simp] theorem State.jumpTo_outputs (s : State) (p : Word) : (s.jumpTo p).outputs = s.outputs := rfl
@[simp] theorem State.jumpTo_v (s : State) (p : Word) (j : RegIdx) : (s.jumpTo p).v j = s.v j := rfl
@[simp] theorem State.jumpTo_readByte (s : State) (p : Word) (q : Nat) : (s.jumpTo p).readByte q = s.readByte q := rfl
@[simp] theorem State.jumpTo_key (s : State) (p : Word) (j : Nibble) : (s.jumpTo p).key j = s.key j := rfl

/-! #### `raiseFault` -/

@[simp] theorem State.raiseFault_regs (s : State) (c : FaultCause) (p : Word) : (s.raiseFault c p).regs = s.regs := rfl
@[simp] theorem State.raiseFault_index (s : State) (c : FaultCause) (p : Word) : (s.raiseFault c p).index = s.index := rfl
@[simp] theorem State.raiseFault_pc (s : State) (c : FaultCause) (p : Word) : (s.raiseFault c p).pc = s.pc := rfl
@[simp] theorem State.raiseFault_stack (s : State) (c : FaultCause) (p : Word) : (s.raiseFault c p).stack = s.stack := rfl
@[simp] theorem State.raiseFault_dt (s : State) (c : FaultCause) (p : Word) : (s.raiseFault c p).dt = s.dt := rfl
@[simp] theorem State.raiseFault_st (s : State) (c : FaultCause) (p : Word) : (s.raiseFault c p).st = s.st := rfl
@[simp] theorem State.raiseFault_keys (s : State) (c : FaultCause) (p : Word) : (s.raiseFault c p).keys = s.keys := rfl
@[simp] theorem State.raiseFault_lock (s : State) (c : FaultCause) (p : Word) : (s.raiseFault c p).lock = s.lock := rfl
@[simp] theorem State.raiseFault_mem (s : State) (c : FaultCause) (p : Word) : (s.raiseFault c p).mem = s.mem := rfl
@[simp] theorem State.raiseFault_screen (s : State) (c : FaultCause) (p : Word) : (s.raiseFault c p).screen = s.screen := rfl
@[simp] theorem State.raiseFault_lastTick (s : State) (c : FaultCause) (p : Word) : (s.raiseFault c p).lastTick = s.lastTick := rfl
@[simp] theorem State.raiseFault_params (s : State) (c : FaultCause) (p : Word) : (s.raiseFault c p).params = s.params := rfl
@[simp] theorem State.raiseFault_now (s : State) (c : FaultCause) (p : Word) : (s.raiseFault c p).now = s.now := rfl
@[simp] theorem State.raiseFault_rnd (s : State) (c : FaultCause) (p : Word) : (s.raiseFault c p).rnd = s.rnd := rfl
@[simp] theorem State.raiseFault_draws (s : State) (c : FaultCause) (p : Word) : (s.raiseFault c p).draws = s.draws := rfl
@[simp] theorem State.raiseFault_schedule (s : State) (c : FaultCause) (p : Word) : (s.raiseFault c p).schedule = s.schedule := rfl
@[simp] theorem State.raiseFault_outputs (s : State) (c : FaultCause) (p : Word) : (s.raiseFault c p).outputs = s.outputs := rfl
@[simp] theorem State.raiseFault_v (s : State) (c : FaultCause) (p : Word) (j : RegIdx) : (s.raiseFault c p).v j = s.v j := rfl
@[simp] theorem State.raiseFault_readByte (s : State) (c : FaultCause) (p : Word) (q : Nat) : (s.raiseFault c p).readByte q = s.readByte q := rfl
@[simp] theorem State.raiseFault_key (s : State) (c : FaultCause) (p : Word) (j : Nibble) : (s.raiseFault c p).key j = s.key j := rfl
@[simp] theorem State.raiseFault_opcodeAt (s : State) (c : FaultCause) (p : Word) : (s.raiseFault c p).opcodeAt = s.opcodeAt := rfl

/-! #### `writeBytes` -/

@[simp] theorem State.writeBytes_regs (s : State) (a : Nat) (l : List Byte) : (s.writeBytes a l).regs = s.regs := rfl
@[simp] theorem State.writeBytes_index (s : State) (a : Nat) (l : List Byte) : (s.writeBytes a l).index = s.index := rfl
@[simp] theorem State.writeBytes_pc (s : State) (a : Nat) (l : List Byte) : (s.writeBytes a l).pc = s.pc := rfl
@[simp] theorem State.writeBytes_stack (s : State) (a : Nat) (l : List Byte) : (s.writeBytes a l).stack = s.stack := rfl
@[simp] theorem State.writeBytes_dt (s : State) (a : Nat) (l : List Byte) : (s.writeBytes a l).dt = s.dt := rfl
@[simp] theorem State.writeBytes_st (s : State) (a : Nat) (l : List Byte) : (s.writeBytes a l).st = s.st := rfl
@[simp] theorem State.writeBytes_keys (s : State) (a : Nat) (l : List Byte) : (s.writeBytes a l).keys = s.keys := rfl
@[simp] theorem State.writeBytes_lock (s : State) (a : Nat) (l : List Byte) : (s.writeBytes a l).lock = s.lock := rfl
@[simp] theorem State.writeBytes_mem (s : State) (a : Nat) (l : List Byte) : (s.writeBytes a l).mem = Memory.writeBytes s.params.font a l s.mem := rfl
@[simp] theorem State.writeBytes_screen (s : State) (a : Nat) (l : List Byte) : (s.writeBytes a l).screen = s.screen := rfl
@[simp] theorem State.writeBytes_lastTick (s : State) (a : Nat) (l : List Byte) : (s.writeBytes a l).lastTick = s.lastTick := rfl
@[simp] theorem State.writeBytes_fault (s : State) (a : Nat) (l : List Byte) : (s.writeBytes a l).fault = s.fault := rfl
@[simp] theorem State.writeBytes_params (s : State) (a : Nat) (l : List Byte) : (s.writeBytes a l).params = s.params := rfl
@[simp] theorem State.writeBytes_now (s : State) (a : Nat) (l : List Byte) : (s.writeBytes a l).now = s.now := rfl
@[simp] theorem State.writeBytes_rnd (s : State) (a : Nat) (l : List Byte) : (s.writeBytes a l).rnd = s.rnd := rfl
@[simp] theorem State.writeBytes_draws (s : State) (a : Nat) (l : List Byte) : (s.writeBytes a l).draws = s.draws := rfl
@[simp] theorem State.writeBytes_schedule (s : State) (a : Nat) (l : List Byte) : (s.writeBytes a l).schedule = s.schedule := rfl
@[simp] theorem State.writeBytes_outputs (s : State) (a : Nat) (l : List Byte) : (s.writeBytes a l).outputs = s.outputs := rfl
@[simp] theorem State.writeBytes_v (s : State) (a : Nat) (l : List Byte) (j : RegIdx) : (s.writeBytes a l).v j = s.v j := rfl
@[simp] theorem State.writeBytes_key (s : State) (a : Nat) (l : List Byte) (j : Nibble) : (s.writeBytes a l).key j = s.key j := rfl

/-! #### `setKey` -/

@[simp] theorem State.setKey_regs (s : State) (k : Nibble) (b : Bool) : (s.setKey k b).regs = s.regs := rfl
@[simp] theorem State.setKey_index (s : State) (k : Nibble) (b : Bool) : (s.setKey k b).index = s.index := rfl
@[simp] theorem State.setKey_pc (s : State) (k : Nibble) (b : Bool) : (s.setKey k b).pc = s.pc := rfl
@[simp] theorem State.setKey_stack (s : State) (k : Nibble) (b : Bool) : (s.setKey k b).stack = s.stack := rfl
@[simp] theorem State.setKey_dt (s : State) (k : Nibble) (b : Bool) : (s.setKey k b).dt = s.dt := rfl
@[simp] theorem State.setKey_st (s : State) (k : Nibble) (b : Bool) : (s.setKey k b).st = s.st := rfl
@[simp] theorem State.setKey_lock (s : State) (k : Nibble) (b : Bool) : (s.setKey k b).lock = s.lock := rfl
@[simp] theorem State.setKey_mem (s : State) (k : Nibble) (b : Bool) : (s.setKey k b).mem = s.mem := rfl
@[simp] theorem State.setKey_screen (s : State) (k : Nibble) (b : Bool) : (s.setKey k b).screen = s.screen := rfl
@[simp] theorem State.setKey_lastTick (s : State) (k : Nibble) (b : Bool) : (s.setKey k b).lastTick = s.lastTick := rfl
@[simp] theorem State.setKey_fault (s : State) (k : Nibble) (b : Bool) : (s.setKey k b).fault = s.fault := rfl
@[simp] theorem State.setKey_params (s : State) (k : Nibble) (b : Bool) : (s.setKey k b).params = s.params := rfl
@[simp] theorem State.setKey_now (s : State) (k : Nibble) (b : Bool) : (s.setKey k b).now = s.now := rfl
@[simp] theorem State.setKey_rnd (s : State) (k : Nibble) (b : Bool) : (s.setKey k b).rnd = s.rnd := rfl
@[simp] theorem State.setKey_draws (s : State) (k : Nibble) (b : Bool) : (s.setKey k b).draws = s.draws := rfl
@[simp] theorem State.setKey_schedule (s : State) (k : Nibble) (b : Bool) : (s.setKey k b).schedule = s.schedule := rfl
@[simp] theorem State.setKey_outputs (s : State) (k : Nibble) (b : Bool) : (s.setKey k b).outputs = s.outputs := rfl
@[simp] theorem State.setKey_v (s : State) (k : Nibble) (b : Bool) (j : RegIdx) : (s.setKey k b).v j = s.v j := rfl
@[simp] theorem State.setKey_readByte (s : State) (k : Nibble) (b : Bool) (q : Nat) : (s.setKey k b).readByte q = s.readByte q := rfl
@[simp] theorem State.setKey_opcodeAt (s : State) (k : Nibble) (b : Bool) : (s.setKey k b).opcodeAt = s.opcodeAt := rfl

/-! #### `setResultAndFlag` -/

@[simp] theorem State.setResultAndFlag_index (s : State) (x : RegIdx) (r f : Byte) : (s.setResultAndFlag x r f).index = s.index := rfl
@[simp] theorem State.setResultAndFlag_pc (s : State) (x : RegIdx) (r f : Byte) : (s.setResultAndFlag x r f).pc = s.pc := rfl
@[simp] theorem State.setResultAndFlag_stack (s : State) (x : RegIdx) (r f : Byte) : (s.setResultAndFlag x r f).stack = s.stack := rfl
@[simp] theorem State.setResultAndFlag_dt (s : State) (x : RegIdx) (r f : Byte) : (s.setResultAndFlag x r f).dt = s.dt := rfl
@[simp] theorem State.setResultAndFlag_st (s : State) (x : RegIdx) (r f : Byte) : (s.setResultAndFlag x r f).st = s.st := rfl
@[simp] theorem State.setResultAndFlag_keys (s : State) (x : RegIdx) (r f : Byte) : (s.setResultAndFlag x r f).keys = s.keys := rfl
@[simp] theorem State.setResultAndFlag_lock (s : State) (x : RegIdx) (r f : Byte) : (s.setResultAndFlag x r f).lock = s.lock := rfl
@[simp] theorem State.setResultAndFlag_mem (s : State) (x : RegIdx) (r f : Byte) : (s.setResultAndFlag x r f).mem = s.mem := rfl
@[simp] theorem State.setResultAndFlag_screen (s : State) (x : RegIdx) (r f : Byte) : (s.setResultAndFlag x r f).screen = s.screen := rfl
@[simp] theorem State.setResultAndFlag_lastTick (s : State) (x : RegIdx) (r f : Byte) : (s.setResultAndFlag x r f).lastTick = s.lastTick := rfl
@[simp] theorem State.setResultAndFlag_fault (s : State) (x : RegIdx) (r f : Byte) : (s.setResultAndFlag x r f).fault = s.fault := rfl
@[simp] theorem State.setResultAndFlag_params (s : State) (x : RegIdx) (r f : Byte) : (s.setResultAndFlag x r f).params = s.params := rfl
@[simp] theorem State.setResultAndFlag_now (s : State) (x : RegIdx) (r f : Byte) : (s.setResultAndFlag x r f).now = s.now := rfl
@[simp] theorem State.setResultAndFlag_rnd (s : State) (x : RegIdx) (r f : Byte) : (s.setResultAndFlag x r f).rnd = s.rnd := rfl
@[simp] theorem State.setResultAndFlag_draws (s : State) (x : RegIdx) (r f : Byte) : (s.setResultAndFlag x r f).draws = s.draws := rfl
@[simp] theorem State.setResultAndFlag_schedule (s : State) (x : RegIdx) (r f : Byte) : (s.setResultAndFlag x r f).schedule = s.schedule := rfl
@[simp] theorem State.setResultAndFlag_outputs (s : State) (x : RegIdx) (r f : Byte) : (s.setResultAndFlag x r f).outputs = s.outputs := rfl
@[simp] theorem State.setResultAndFlag_readByte (s : State) (x : RegIdx) (r f : Byte) (q : Nat) : (s.setResultAndFlag x r f).readByte q = s.readByte q := rfl
@[simp] theorem State.setResultAndFlag_key (s : State) (x : RegIdx) (r f : Byte) (j : Nibble) : (s.setResultAndFlag x r f).key j = s.key j := rfl
@[simp] theorem State.setResultAndFlag_opcodeAt (s : State) (x : RegIdx) (r f : Byte) : (s.setResultAndFlag x r f).opcodeAt = s.opcodeAt := rfl

/-! #### `loadLowRegs` -/

@[simp] theorem State.loadLowRegs_index (s : State) (x : RegIdx) : (s.loadLowRegs x).index = s.index := rfl
@[simp] theorem State.loadLowRegs_pc (s : State) (x : RegIdx) : (s.loadLowRegs x).pc = s.pc := rfl
@[simp] theorem State.loadLowRegs_stack (s : State) (x : RegIdx) : (s.loadLowRegs x).stack = s.stack := rfl
@[simp] theorem State.loadLowRegs_dt (s : State) (x : RegIdx) : (s.loadLowRegs x).dt = s.dt := rfl
@[simp] theorem State.loadLowRegs_st (s : State) (x : RegIdx) : (s.loadLowRegs x).st = s.st := rfl
@[simp] theorem State.loadLowRegs_keys (s : State) (x : RegIdx) : (s.loadLowRegs x).keys = s.keys := rfl
@[simp] theorem State.loadLowRegs_lock (s : State) (x : RegIdx) : (s.loadLowRegs x).lock = s.lock := rfl
@[simp] theorem State.loadLowRegs_mem (s : State) (x : RegIdx) : (s.loadLowRegs x).mem = s.mem := rfl
@[simp] theorem State.loadLowRegs_screen (s : State) (x : RegIdx) : (s.loadLowRegs x).screen = s.screen := rfl
@[simp] theorem State.loadLowRegs_lastTick (s : State) (x : RegIdx) : (s.loadLowRegs x).lastTick = s.lastTick := rfl
@[simp] theorem State.loadLowRegs_fault (s : State) (x : RegIdx) : (s.loadLowRegs x).fault = s.fault := rfl
@[simp] theorem State.loadLowRegs_params (s : State) (x : RegIdx) : (s.loadLowRegs x).params = s.params := rfl
@[simp] theorem State.loadLowRegs_now (s : State) (x : RegIdx) : (s.loadLowRegs x).now = s.now := rfl
@[simp] theorem State.loadLowRegs_rnd (s : State) (x : RegIdx) : (s.loadLowRegs x).rnd = s.rnd := rfl
@[simp] theorem State.loadLowRegs_draws (s : State) (x : RegIdx) : (s.loadLowRegs x).draws = s.draws := rfl
@[simp] theorem State.loadLowRegs_schedule (s : State) (x : RegIdx) : (s.loadLowRegs x).schedule = s.schedule := rfl
@[simp] theorem State.loadLowRegs_outputs (s : State) (x : RegIdx) : (s.loadLowRegs x).outputs = s.outputs := rfl
@[simp] theorem State.loadLowRegs_readByte (s : State) (x : RegIdx) (q : Nat) : (s.loadLowRegs x).readByte q = s.readByte q := rfl
@[simp] theorem State.loadLowRegs_key (s : State) (x : RegIdx) (j : Nibble) : (s.loadLowRegs x).key j = s.key j := rfl
@[simp] theorem State.loadLowRegs_opcodeAt (s : State) (x : RegIdx) : (s.loadLowRegs x).opcodeAt = s.opcodeAt := rfl

/-! #### `timerDecay` -/

@[simp] theorem State.timerDecay_regs (s : State) (n : Nat) : (s.timerDecay n).regs = s.regs := rfl
@[simp] theorem State.timerDecay_index (s : State) (n : Nat) : (s.timerDecay n).index = s.index := rfl
@[simp] theorem State.timerDecay_pc (s : State) (n : Nat) : (s.timerDecay n).pc = s.pc := rfl
@[simp] theorem State.timerDecay_stack (s : State) (n : Nat) : (s.timerDecay n).stack = s.stack := rfl
@[simp] theorem State.timerDecay_dt (s : State) (n : Nat) : (s.timerDecay n).dt = decayed (s.elapsedSeconds n) s.dt := rfl
@[simp] theorem State.timerDecay_st (s : State) (n : Nat) : (s.timerDecay n).st = decayed (s.elapsedSeconds n) s.st := rfl
@[simp] theorem State.timerDecay_keys (s : State) (n : Nat) : (s.timerDecay n).keys = s.keys := rfl
@[simp] theorem State.timerDecay_lock (s : State) (n : Nat) : (s.timerDecay n).lock = s.lock := rfl
@[simp] theorem State.timerDecay_mem (s : State) (n : Nat) : (s.timerDecay n).mem = s.mem := rfl
@[simp] theorem State.timerDecay_screen (s : State) (n : Nat) : (s.timerDecay n).screen = s.screen := rfl
@[simp] theorem State.timerDecay_fault (s : State) (n : Nat) : (s.timerDecay n).fault = s.fault := rfl
@[simp] theorem State.timerDecay_params (s : State) (n : Nat) : (s.timerDecay n).params = s.params := rfl
@[simp] theorem State.timerDecay_now (s : State) (n : Nat) : (s.timerDecay n).now = s.now := rfl
@[simp] theorem State.timerDecay_rnd (s : State) (n : Nat) : (s.timerDecay n).rnd = s.rnd := rfl
@[simp] theorem State.timerDecay_draws (s : State) (n : Nat) : (s.timerDecay n).draws = s.draws := rfl
@[simp] theorem State.timerDecay_schedule (s : State) (n : Nat) : (s.timerDecay n).schedule = s.schedule := rfl
@[simp] theorem State.timerDecay_outputs (s : State) (n : Nat) : (s.timerDecay n).outputs = s.outputs := rfl
@[simp] theorem State.timerDecay_v (s : State) (n : Nat) (j : RegIdx) : (s.timerDecay n).v j = s.v j := rfl
@[simp] theorem State.timerDecay_readByte (s : State) (n : Nat) (q : Nat) : (s.timerDecay n).readByte q = s.readByte q := rfl
@[simp] theorem State.timerDecay_key (s : State) (n : Nat) (j : Nibble) : (s.timerDecay n).key j = s.key j := rfl
@[simp] theorem State.timerDecay_opcodeAt (s : State) (n : Nat) : (s.timerDecay n).opcodeAt = s.opcodeAt := rfl

/-! #### `skipIf` -/

@[simp] theorem State.skipIf_regs (s : State) (c : Bool) : (s.skipIf c).regs = s.regs := by cases c <;> rfl
@[simp] theorem State.skipIf_index (s : State) (c : Bool) : (s.skipIf c).index = s.index := by cases c <;> rfl
@[simp] theorem State.skipIf_stack (s : State) (c : Bool) : (s.skipIf c).stack = s.stack := by cases c <;> rfl
@[simp] theorem State.skipIf_dt (s : State) (c : Bool) : (s.skipIf c).dt = s.dt := by cases c <;> rfl
@[simp] theorem State.skipIf_st (s : State) (c : Bool) : (s.skipIf c).st = s.st := by cases c <;> rfl
@[simp] theorem State.skipIf_keys (s : State) (c : Bool) : (s.skipIf c).keys = s.keys := by cases c <;> rfl
@[simp] theorem State.skipIf_lock (s : State) (c : Bool) : (s.skipIf c).lock = s.lock := by cases c <;> rfl
@[simp] theorem State.skipIf_mem (s : State) (c : Bool) : (s.skipIf c).mem = s.mem := by cases c <;> rfl
@[simp] theorem State.skipIf_screen (s : State) (c : Bool) : (s.skipIf c).screen = s.screen := by cases c <;> rfl
@[simp] theorem State.skipIf_lastTick (s : State) (c : Bool) : (s.skipIf c).lastTick = s.lastTick := by cases c <;> rfl
@[simp] theorem State.skipIf_fault (s : State) (c : Bool) : (s.skipIf c).fault = s.fault := by cases c <;> rfl
@[simp] theorem State.skipIf_params (s : State) (c : Bool) : (s.skipIf c).params = s.params := by cases c <;> rfl
@[simp] theorem State.skipIf_now (s : State) (c : Bool) : (s.skipIf c).now = s.now := by cases c <;> rfl
@[simp] theorem State.skipIf_rnd (s : State) (c : Bool) : (s.skipIf c).rnd = s.rnd := by cases c <;> rfl
@[simp] theorem State.skipIf_draws (s : State) (c : Bool) : (s.skipIf c).draws = s.draws := by cases c <;> rfl
@[simp] theorem State.skipIf_schedule (s : State) (c : Bool) : (s.skipIf c).schedule = s.schedule := by cases c <;> rfl
@[simp] theorem State.skipIf_outputs (s : State) (c : Bool) : (s.skipIf c).outputs = s.outputs := by cases c <;> rfl
@[simp] theorem State.skipIf_v (s : State) (c : Bool) (j : RegIdx) : (s.skipIf c).v j = s.v j := by cases c <;> rfl
@[simp] theorem State.skipIf_readByte (s : State) (c : Bool) (q : Nat) : (s.skipIf c).readByte q = s.readByte q := by cases c <;> rfl
@[simp] theorem State.skipIf_pc (s : State) (c : Bool) : (s.skipIf c).pc = if c then s.pc + 2 else s.pc := by cases c <;> rfl

/-! #### Registers, keys, and the derived fields -/

/-- A register after a register write: the written one holds the byte, every other is unchanged (10_state.md R20). -/
@[simp] theorem State.setV_v (s : State) (x : RegIdx) (b : Byte) (j : RegIdx) :
    (s.setV x b).v j = if j = x then b else s.v j := by
  simp only [State.v, State.setV, Vector.getElem_set]
  by_cases h : j = x
  · simp [h]
  · have : x.toNat ≠ j.toNat := fun e => h (BitVec.eq_of_toNat_eq e.symm)
    simp [h, this]

/-- VF wins over the result when X = F (43_alu.md R170). -/
@[simp] theorem State.setResultAndFlag_v (s : State) (x : RegIdx) (r f : Byte) (j : RegIdx) :
    (s.setResultAndFlag x r f).v j = if j = vf then f else if j = x then r else s.v j := by
  simp [State.setResultAndFlag]

/-- LD Vx, [I] writes V0..VX and no other register (44_index_memory.md R205). -/
@[simp] theorem State.loadLowRegs_v (s : State) (x j : RegIdx) :
    (s.loadLowRegs x).v j = if j.toNat ≤ x.toNat then s.readByte (s.dataAddress j.toNat) else s.v j := by
  simp [State.v, State.loadLowRegs]

/-- A key after a key write. -/
@[simp] theorem State.setKey_key (s : State) (k : Nibble) (b : Bool) (j : Nibble) :
    (s.setKey k b).key j = if j = k then b else s.key j := by
  simp only [State.key, State.setKey, State.setKeys, Vector.getElem_set]
  by_cases h : j = k
  · simp [h]
  · have : k.toNat ≠ j.toNat := fun e => h (BitVec.eq_of_toNat_eq e.symm)
    simp [h, this]

/-- The record an ExecutionFault leaves (60_exceptions.md R263). -/
@[simp] theorem State.raiseFault_fault (s : State) (c : FaultCause) (p : Word) :
    (s.raiseFault c p).fault =
      { valid := true, cause := c.code, pc := s.pc, opcode := if c = .fetchOutOfRange then 0 else s.opcodeAt, value := p } :=
  rfl

/-- When `last_tick` moves (60_exceptions.md R276). -/
@[simp] theorem State.timerDecay_lastTick (s : State) (n : Nat) :
    (s.timerDecay n).lastTick = if 1 ≤ s.elapsedSeconds n then n else s.lastTick := rfl

end Sys2Proof.Machine
end

