-- ==== Sys2Proof/Laws/Memory.lean ====
section
/-! SUPPORT. Memory operations: read after write, and that each keeps the canonical form. -/

namespace Sys2Proof.Machine

variable {font : Vector Byte Config.fontSize}

@[simp] theorem Memory.read_nil (a : Nat) : Memory.read font [] a = unlistedByte font a := rfl

@[simp] theorem Memory.read_cons (b : Nat) (v : Byte) (m : Memory) (a : Nat) :
    Memory.read font ((b, v) :: m) a = if b = a then v else Memory.read font m a := rfl

/-- A listed address reads as it was listed, every other as before. -/
theorem Memory.read_put (a : Nat) (v : Byte) (m : Memory) (c : Nat) :
    Memory.read font (Memory.put a v m) c = if c = a then v else Memory.read font m c := by
  induction m with
  | nil => simp [Memory.put, eq_comm]
  | cons e m ih =>
    obtain ⟨b, w⟩ := e
    simp only [Memory.put]
    by_cases h1 : a < b
    · simp only [if_pos h1, Memory.read_cons, eq_comm]
    · by_cases h2 : b = a
      · subst h2; simp only [if_neg h1, if_true, Memory.read_cons]; grind
      · simp only [if_neg h1, if_neg h2, Memory.read_cons, ih]; grind

/-- An unlisted address reads as its reset contents, every other as before. -/
theorem Memory.read_erase (a : Nat) (m : Memory) (c : Nat) :
    Memory.read font (Memory.erase a m) c = if c = a then unlistedByte font a else Memory.read font m c := by
  induction m with
  | nil => simp only [Memory.erase, List.filter_nil, Memory.read_nil]; split_ifs with h <;> simp [h]
  | cons e m ih =>
    obtain ⟨b, w⟩ := e
    simp only [Memory.erase] at ih
    by_cases h : b = a <;> simp [Memory.erase, h, ih] <;> grind

/-- Read after write (20_memory.md R58, R62): the written byte at the written address, every other byte unchanged. -/
theorem Memory.read_write (a : Nat) (v : Byte) (m : Memory) (c : Nat) (h : a < Config.memorySize) :
    Memory.read font (Memory.write font a v m) c = if c = a then v else Memory.read font m c := by
  unfold Memory.write
  rw [if_pos h]
  split_ifs with hv hc <;> simp_all [Memory.read_erase, Memory.read_put]

theorem Memory.mem_put {a : Nat} {v : Byte} {m : Memory} {c : Host.Cell} (h : c ∈ Memory.put a v m) :
    c = (a, v) ∨ c ∈ m := by
  induction m with
  | nil => simpa [Memory.put] using h
  | cons e m ih =>
    obtain ⟨b, w⟩ := e
    simp only [Memory.put] at h
    split_ifs at h <;> simp at h ⊢ <;> grind

theorem Memory.put_pairwise (a : Nat) (v : Byte) (m : Memory) (h : m.Pairwise fun c d => c.1 < d.1) :
    (Memory.put a v m).Pairwise fun c d => c.1 < d.1 := by
  induction m with
  | nil => simp [Memory.put]
  | cons e m ih =>
    obtain ⟨b, w⟩ := e
    rw [List.pairwise_cons] at h
    simp only [Memory.put]
    split_ifs with h1 h2
    · refine List.pairwise_cons.2 ⟨?_, List.pairwise_cons.2 h⟩
      intro c hc
      rcases List.mem_cons.1 hc with rfl | hc
      · exact h1
      · exact lt_trans h1 (h.1 c hc)
    · exact List.pairwise_cons.2 ⟨fun c hc => h2 ▸ h.1 c hc, h.2⟩
    · refine List.pairwise_cons.2 ⟨?_, ih h.2⟩
      intro c hc
      rcases Memory.mem_put hc with rfl | hc
      · simp; omega
      · exact h.1 c hc

/-- A write keeps the canonical form. -/
theorem Memory.write_wf (a : Nat) (v : Byte) (m : Memory) (h : Memory.wf font m) : Memory.wf font (Memory.write font a v m) := by
  unfold Memory.write
  split_ifs with ha hv
  · exact ⟨h.1.filter _, fun c hc => h.2 c (List.mem_of_mem_filter hc)⟩
  · refine ⟨Memory.put_pairwise a v m h.1, fun c hc => ?_⟩
    rcases Memory.mem_put hc with rfl | hc
    · exact ⟨ha, hv⟩
    · exact h.2 c hc
  · exact h

/-- A write of several bytes keeps the canonical form. -/
theorem Memory.writeBytes_wf (a : Nat) (l : List Byte) (m : Memory) (h : Memory.wf font m) :
    Memory.wf font (Memory.writeBytes font a l m) := by
  induction l generalizing a m with
  | nil => exact h
  | cons b l ih => exact ih _ _ (Memory.write_wf a b m h)

/-- What memory reads as after bytes are written to ascending addresses inside it (20_memory.md R53). -/
theorem Memory.read_writeBytes (a : Nat) (l : List Byte) (m : Memory) (c : Nat) (h : a + l.length ≤ Config.memorySize) :
    Memory.read font (Memory.writeBytes font a l m) c =
      if a ≤ c ∧ c < a + l.length then l.getD (c - a) 0 else Memory.read font m c := by
  induction l generalizing a m with
  | nil => simp [Memory.writeBytes]
  | cons b l ih =>
    simp only [List.length_cons] at h ⊢
    rw [Memory.writeBytes, ih _ _ (by omega), Memory.read_write _ _ _ _ (by omega)]
    by_cases h0 : c = a
    · subst h0; simp
    · rcases Nat.lt_or_ge c a with h1 | h1
      · rw [if_neg (by omega), if_neg h0, if_neg (by omega)]
      · obtain ⟨k, rfl⟩ : ∃ k, c = a + 1 + k := ⟨c - (a + 1), by omega⟩
        have e1 : a + 1 + k - (a + 1) = k := by omega
        have e2 : a + 1 + k - a = k + 1 := by omega
        rw [e1, e2, List.getD_cons_succ]
        by_cases h2 : k < l.length
        · rw [if_pos (by omega), if_pos (by omega)]
        · rw [if_neg (by omega), if_neg h0, if_neg (by omega)]

/-- `State.writeBytes`, through the model's read of one byte. -/
theorem State.writeBytes_readByte (s : State) (a : Nat) (l : List Byte) (c : Nat) (h : a + l.length ≤ Config.memorySize) :
    (s.writeBytes a l).readByte c = if a ≤ c ∧ c < a + l.length then l.getD (c - a) 0 else s.readByte c :=
  Memory.read_writeBytes a l s.mem c h

/-- The `k`-th byte read. -/
@[simp] theorem State.length_readBytes (s : State) (a n : Nat) : (s.readBytes a n).length = n := by
  simp [State.readBytes]

theorem State.readBytes_getD (s : State) (a n k : Nat) (h : k < n) : (s.readBytes a n).getD k 0 = s.readByte (a + k) := by
  simp [State.readBytes, List.getD, h]

/-- V0..VX as a list of bytes. -/
@[simp] theorem State.length_lowRegs (s : State) (x : RegIdx) : (s.lowRegs x).length = x.toNat + 1 := by
  have := x.isLt
  simp [State.lowRegs]
  omega

theorem State.lowRegs_getD (s : State) (x j : RegIdx) (h : j.toNat ≤ x.toNat) : (s.lowRegs x).getD j.toNat 0 = s.v j := by
  have := j.isLt
  simp [State.lowRegs, State.v, List.getD, Nat.lt_succ_of_le h, Vector.getElem?_eq_getElem this]

/-- `in_range` in the words of 20_memory.md R55. -/
theorem inRange_iff (a n : Nat) : inRange a n = true ↔ n = 0 ∨ a + n - 1 ≤ 0xFFF := by
  simp [inRange]

end Sys2Proof.Machine
end

