-- ==== Sys2Proof/Laws/Display.lean ====
section
/-! SUPPORT. The framebuffer controller: what a toggle, a sprite row and a sprite do to each pixel and to the collision. -/

namespace Sys2Proof.Machine

/-- A pixel is named by its column modulo 64 and its row modulo 32. -/
theorem Screen.pixel_congr (sc : Screen) {x y u v : Nat} (hx : x % Config.columns = u % Config.columns)
    (hy : y % Config.rows = v % Config.rows) : sc.pixel x y = sc.pixel u v := by
  simp only [Screen.pixel, hx, hy]

/-- A toggle complements its pixel and no other. -/
theorem Screen.toggle_pixel (sc : Screen) (x y u v : Nat) :
    (sc.toggle x y).pixel u v =
      if x % Config.columns = u % Config.columns ∧ y % Config.rows = v % Config.rows then !sc.pixel u v
      else sc.pixel u v := by
  simp only [Screen.pixel, Screen.toggle]
  by_cases hy : y % Config.rows = v % Config.rows
  · by_cases hx : x % Config.columns = u % Config.columns <;> simp [hx, hy]
  · simp [hy]

/-- Every pixel of the cleared screen is off. -/
@[simp] theorem Screen.blank_pixel (x y : Nat) : Screen.blank.pixel x y = false := by
  simp [Screen.pixel, Screen.blank]

/-- Two screens with the same pixels are the same screen. -/
theorem Screen.ext_pixel {a b : Screen} (h : ∀ x y, a.pixel x y = b.pixel x y) : a = b := by
  apply Vector.ext; intro y hy
  apply Vector.ext; intro x hx
  have := h x y
  simpa [Screen.pixel, Nat.mod_eq_of_lt hx, Nat.mod_eq_of_lt hy] using this

/-- Columns of one sprite row on which a set bit falls on pixel (u, v). -/
def columnsCover (byte : Byte) (px py : Nat) (cols : List Nat) (u v : Nat) : Prop :=
  ∃ c ∈ cols, byte.getLsbD (7 - c) = true ∧ (px + c) % Config.columns = u % Config.columns ∧
    py % Config.rows = v % Config.rows

/-- What drawing some distinct columns of a sprite row does. -/
theorem foldl_drawColumn (byte : Byte) (px py : Nat) (cols : List Nat) (d : DrawState)
    (small : ∀ c ∈ cols, c < Config.columns) (nodup : cols.Nodup) :
    (∀ u v, columnsCover byte px py cols u v →
      (cols.foldl (drawColumn byte px py) d).screen.pixel u v = !d.screen.pixel u v) ∧
    (∀ u v, ¬ columnsCover byte px py cols u v →
      (cols.foldl (drawColumn byte px py) d).screen.pixel u v = d.screen.pixel u v) ∧
    ((cols.foldl (drawColumn byte px py) d).collision = true ↔
      d.collision = true ∨ ∃ c ∈ cols, byte.getLsbD (7 - c) = true ∧ d.screen.pixel (px + c) py = true) := by
  induction cols generalizing d with
  | nil => simp [columnsCover]
  | cons c cols ih =>
    rw [List.nodup_cons] at nodup
    have small' : ∀ e ∈ cols, e < Config.columns := fun e he => small e (List.mem_cons_of_mem _ he)
    obtain ⟨h1, h2, h3⟩ := ih (drawColumn byte px py d c) small' nodup.2
    have hc := small c List.mem_cons_self
    have apart : ∀ e ∈ cols, (px + c) % Config.columns ≠ (px + e) % Config.columns := by
      intro e he h
      have := small' e he
      have : c = e := by simp only [Config.columns] at *; omega
      exact nodup.1 (this ▸ he)
    simp only [List.foldl_cons]
    by_cases hb : byte.getLsbD (7 - c) = true
    · have pix : ∀ u v, (drawColumn byte px py d c).screen.pixel u v =
          if (px + c) % Config.columns = u % Config.columns ∧ py % Config.rows = v % Config.rows then !d.screen.pixel u v
          else d.screen.pixel u v := by
        intro u v; simp [drawColumn, hb, Screen.toggle_pixel]
      refine ⟨fun u v h => ?_, fun u v h => ?_, ?_⟩
      · obtain ⟨e, he, be, hx, hy⟩ := h
        rcases List.mem_cons.1 he with rfl | he
        · rw [h2 u v, pix, if_pos ⟨hx, hy⟩]
          rintro ⟨e', he', -, hx', -⟩
          exact apart e' he' (hx.trans hx'.symm)
        · rw [h1 u v ⟨e, he, be, hx, hy⟩, pix, if_neg]
          rintro ⟨hx', -⟩
          exact apart e he (hx'.trans hx.symm)
      · rw [h2 u v, pix, if_neg]
        · rintro ⟨hx, hy⟩
          exact h ⟨c, List.mem_cons_self, hb, hx, hy⟩
        · rintro ⟨e, he, r⟩
          exact h ⟨e, List.mem_cons_of_mem _ he, r⟩
      · rw [h3]
        have same : ∀ e ∈ cols, (drawColumn byte px py d c).screen.pixel (px + e) py = d.screen.pixel (px + e) py := by
          intro e he
          rw [pix, if_neg]
          rintro ⟨hx, -⟩
          exact apart e he hx
        have hcol : (drawColumn byte px py d c).collision = (d.collision || d.screen.pixel (px + c) py) := by
          simp [drawColumn, hb]
        rw [hcol, Bool.or_eq_true]
        constructor
        · rintro ((h | h) | ⟨e, he, be, hp⟩)
          · exact .inl h
          · exact .inr ⟨c, List.mem_cons_self, hb, h⟩
          · exact .inr ⟨e, List.mem_cons_of_mem _ he, be, (same e he) ▸ hp⟩
        · rintro (h | ⟨e, he, be, hp⟩)
          · exact .inl (.inl h)
          · rcases List.mem_cons.1 he with rfl | he
            · exact .inl (.inr hp)
            · exact .inr ⟨e, he, be, (same e he).symm ▸ hp⟩
    · have same : drawColumn byte px py d c = d := by simp [drawColumn, hb]
      rw [same] at h1 h2 h3
      have drop : ∀ u v, columnsCover byte px py (c :: cols) u v ↔ columnsCover byte px py cols u v := by
        intro u v; simp [columnsCover, hb]
      rw [same]
      refine ⟨fun u v h => h1 u v ((drop u v).1 h), fun u v h => h2 u v fun k => h ((drop u v).2 k), ?_⟩
      rw [h3]; simp [hb]

/-- What drawing one sprite row does (46_display.md R242, R243). -/
theorem drawRow_spec (byte : Byte) (px py : Nat) (d : DrawState) :
    (∀ u v, columnsCover byte px py (List.range 8) u v →
      (drawRow byte px py d).screen.pixel u v = !d.screen.pixel u v) ∧
    (∀ u v, ¬ columnsCover byte px py (List.range 8) u v →
      (drawRow byte px py d).screen.pixel u v = d.screen.pixel u v) ∧
    ((drawRow byte px py d).collision = true ↔
      d.collision = true ∨ ∃ c < 8, byte.getLsbD (7 - c) = true ∧ d.screen.pixel (px + c) py = true) := by
  have h := foldl_drawColumn byte px py (List.range 8) d (by simp [Config.columns]; omega) List.nodup_range
  simpa only [drawRow, List.mem_range] using h

/-- The sprite without its first row. -/
theorem spriteCovers_cons (px py : Nat) (b : Byte) (l : List Byte) (u v : Nat) :
    spriteCovers px py (b :: l) u v ↔
      columnsCover b px py (List.range 8) u v ∨ spriteCovers px (py + 1) l u v := by
  constructor
  · rintro ⟨r, c, hr, hc, hx, hy, hb⟩
    cases r with
    | zero => exact .inl ⟨c, List.mem_range.2 hc, by simpa using hb, hx, by simpa using hy⟩
    | succ r =>
      refine .inr ⟨r, c, by simpa using hr, hc, hx, ?_, by simpa using hb⟩
      rw [← hy]; congr 1; omega
  · rintro (⟨c, hc, hb, hx, hy⟩ | ⟨r, c, hr, hc, hx, hy, hb⟩)
    · exact ⟨0, c, by simp, List.mem_range.1 hc, hx, by simpa using hy, by simpa using hb⟩
    · refine ⟨r + 1, c, by simpa using hr, hc, hx, ?_, by simpa using hb⟩
      rw [← hy]; congr 1; omega

/-- XOR-DRAW as a set of pixels: each covered pixel is complemented, each other is unchanged, and there is a collision iff a
covered pixel was on (46_display.md R242, R243), for a sprite of at most 32 rows. -/
theorem drawSprite_spec (px py : Nat) (bytes : List Byte) (d : DrawState) (short : bytes.length ≤ Config.rows) :
    (∀ u v, spriteCovers px py bytes u v → (drawSprite px py bytes d).screen.pixel u v = !d.screen.pixel u v) ∧
    (∀ u v, ¬ spriteCovers px py bytes u v → (drawSprite px py bytes d).screen.pixel u v = d.screen.pixel u v) ∧
    ((drawSprite px py bytes d).collision = true ↔
      d.collision = true ∨ ∃ u v, spriteCovers px py bytes u v ∧ d.screen.pixel u v = true) := by
  induction bytes generalizing py d with
  | nil => simp [drawSprite, spriteCovers]
  | cons b l ih =>
    simp only [List.length_cons] at short
    obtain ⟨h1, h2, h3⟩ := ih (py + 1) (drawRow b px py d) (by omega)
    obtain ⟨r1, r2, r3⟩ := drawRow_spec b px py d
    have apart : ∀ u v, columnsCover b px py (List.range 8) u v → ¬ spriteCovers px (py + 1) l u v := by
      rintro u v ⟨c, -, -, -, hy⟩ ⟨r, c', hr, -, -, hy', -⟩
      have := hy.trans hy'.symm
      simp only [Config.rows] at this short
      omega
    simp only [drawSprite]
    refine ⟨fun u v h => ?_, fun u v h => ?_, ?_⟩
    · rcases (spriteCovers_cons ..).1 h with h | h
      · rw [h2 u v (apart u v h), r1 u v h]
      · rw [h1 u v h, r2 u v fun k => apart u v k h]
    · rw [h2 u v fun k => h ((spriteCovers_cons ..).2 (.inr k)), r2 u v fun k => h ((spriteCovers_cons ..).2 (.inl k))]
    · rw [h3, r3]
      constructor
      · rintro ((h | ⟨c, hc, hb, hp⟩) | ⟨u, v, hs, hp⟩)
        · exact .inl h
        · exact .inr ⟨px + c, py, (spriteCovers_cons ..).2 (.inl ⟨c, List.mem_range.2 hc, hb, rfl, rfl⟩), hp⟩
        · rw [r2 u v fun k => apart u v k hs] at hp
          exact .inr ⟨u, v, (spriteCovers_cons ..).2 (.inr hs), hp⟩
      · rintro (h | ⟨u, v, hs, hp⟩)
        · exact .inl (.inl h)
        · rcases (spriteCovers_cons ..).1 hs with h | h
          · obtain ⟨c, hc, hb, hx, hy⟩ := h
            exact .inl (.inr ⟨c, List.mem_range.1 hc, hb, (d.screen.pixel_congr hx hy).trans hp⟩)
          · exact .inr ⟨u, v, h, by rw [r2 u v fun k => apart u v k h]; exact hp⟩

end Sys2Proof.Machine
end

