-- ==== Sys2Proof/Laws/Exec.lean ====
section
/-! SUPPORT. One lemma per shared operation of the meanings: what each check and each control operation answers, and how the
frame of an instruction is assembled from the fields of the next state. -/

namespace Sys2Proof.Machine

/-! ### The checks (20_memory.md R55, 42_skips.md R157, 41_control_transfer.md R132) -/

/-- In range: the rest of the instruction. -/
theorem State.checkData_inRange (s : State) (n : Nat) (rest : State → State) (h : n = 0 ∨ s.index.toNat + n - 1 ≤ 0xFFF) :
    s.checkData n rest = rest s := if_pos ((inRange_iff _ _).2 h)

/-- Out of range: the fault, with value `I`. -/
theorem State.checkData_outOfRange (s : State) (n : Nat) (rest : State → State)
    (h : ¬ (n = 0 ∨ s.index.toNat + n - 1 ≤ 0xFFF)) :
    s.checkData n rest = s.raiseFault .dataOutOfRange s.index := if_neg fun k => h ((inRange_iff _ _).1 k)

/-- A key index up to 15: the rest of the instruction, with that key. -/
theorem State.checkKey_inRange (s : State) (k : Byte) (rest : Nibble → State) (h : k.toNat ≤ 15) :
    s.checkKey k rest = rest (k.setWidth 4) := if_neg (by omega)

/-- A key index above 15: the fault, with the index as its value. -/
theorem State.checkKey_outOfRange (s : State) (k : Byte) (rest : Nibble → State) (h : 15 < k.toNat) :
    s.checkKey k rest = s.raiseFault .keyIndexOutOfRange (k.setWidth 16) := if_pos h

/-- Room on the stack: the push, then the rest. -/
theorem State.checkPush_room (s : State) (v : Word) (rest : State → State) (h : s.stack.length ≠ s.params.stackDepth) :
    s.checkPush v rest = rest (s.setStack (v :: s.stack)) := if_neg h

/-- A full stack: the fault, with the depth as its value. -/
theorem State.checkPush_full (s : State) (v : Word) (rest : State → State) (h : s.stack.length = s.params.stackDepth) :
    s.checkPush v rest = s.raiseFault .stackOverflow (BitVec.ofNat 16 s.stack.length) := if_pos h

/-- An ExecutionFault changes nothing but the record (60_exceptions.md R261, R263). -/
theorem State.raiseFault_eq (s : State) (c : FaultCause) (p : Word) (h : c ≠ .fetchOutOfRange) :
    s.raiseFault c p = { s with fault := faultRecordOf s (c, p) } := by
  simp [State.raiseFault, State.setFault, faultRecordOf, h]

/-! ### Control (40_execution_cycle.md R115, R116; 42_skips.md R150) -/

/-- A jump and the advance end at the target, also for target 0 and 1. -/
@[simp] theorem jump_then_advance (t : Word) : t - 2 + 2 = t := by simp

/-- A skip and the advance end 4 or 2 further on. -/
theorem skip_then_advance (p : Word) (c : Bool) : (if c = true then p + 2 else p) + 2 = if c = true then p + 4 else p + 2 := by
  cases c
  · simp
  · simp only [if_true]; rw [BitVec.add_assoc]; rfl

/-! ### Frames -/

/-- The next state of an instruction that writes registers only. -/
theorem Frame.of_regs (s : State) (r : Vector Byte 16) (p : Word) (f : RegIdx → Bool)
    (h : ∀ j, f j = false → ({ s with regs := r } : State).v j = s.v j) :
    Frame { regs := f } s { s with regs := r, pc := p } := by
  constructor <;> first | (intro j hj; exact h j hj) | (intros; rfl)

/-- The next state of an instruction that writes `pc` only. -/
theorem Frame.of_pc (s : State) (p : Word) : Frame {} s (s.setPc p) := by
  constructor <;> intros <;> rfl

/-- The next state of an instruction that stores bytes from address `a` on, inside memory. -/
theorem Frame.of_writeBytes (s : State) (a : Nat) (l : List Byte) (p : Word) (f : Nat → Bool)
    (inside : a + l.length ≤ Config.memorySize) (h : ∀ c, f c = false → c < a ∨ a + l.length ≤ c) :
    Frame { mem := f } s ((s.writeBytes a l).setPc p) := by
  constructor <;> first | (intros; rfl) | skip
  · intro c hc
    rw [State.setPc_readByte, State.writeBytes_readByte s a l c inside, if_neg]
    rcases h c hc with k | k <;> omega

/-- A frame says nothing of `pc`. -/
theorem Frame.pc_irrelevant {w : Footprint} {s t : State} (h : Frame w s t) (p : Word) : Frame w s (t.setPc p) :=
  ⟨h.regs, h.mem, h.index, h.stack, h.st, h.lock, h.screen, h.dt, h.keys, h.lastTick, h.fault, h.params, h.now, h.rnd,
    h.draws, h.schedule, h.outputs⟩

/-- The next state of an instruction that writes one register. -/
theorem Frame.of_setV (s : State) (x : RegIdx) (b : Byte) : Frame { regs := fun j => j == x } s (s.setV x b).advance := by
  constructor <;> intros <;> simp_all

/-- The next state of an instruction that writes a result and VF. -/
theorem Frame.of_resultAndFlag (s : State) (x : RegIdx) (b c : Byte) :
    Frame { regs := fun j => j == x || j == vf } s (s.setResultAndFlag x b c).advance := by
  constructor <;> intros <;> simp_all

/-- The next state of a skip, taken or not. -/
theorem Frame.of_skip (s : State) (c : Bool) : Frame {} s (s.skipIf c).advance := by
  constructor <;> intros <;> simp_all

/-- Where a skip ends (42_skips.md R150). -/
theorem skipIf_advance_pc (s : State) (c : Bool) : (s.skipIf c).advance.pc = if c = true then s.pc + 4 else s.pc + 2 := by
  simp only [State.advance_pc, State.skipIf_pc]; rw [skip_then_advance]

/-- An address outside `I .. I + k` lies below or above it. -/
theorem outside_dataAddress {s : State} {k a : Nat} (h : (s.dataAddress 0 ≤ a && a ≤ s.dataAddress k : Bool) = false) :
    a < s.index.toNat ∨ s.index.toNat + k < a := by
  rw [← Bool.not_eq_true, Bool.and_eq_true, decide_eq_true_eq, decide_eq_true_eq] at h
  simp only [State.dataAddress] at h
  omega

/-- The next state of an instruction that stores `k + 1` bytes at `I .. I + k`, inside memory. -/
theorem Frame.of_store (s : State) (k : Nat) (l : List Byte) (h : s.index.toNat + k ≤ 0xFFF) (hl : l.length = k + 1) :
    Frame { mem := fun a => s.dataAddress 0 ≤ a && a ≤ s.dataAddress k } s (s.writeBytes (s.dataAddress 0) l).advance := by
  refine Frame.of_writeBytes _ _ _ _ _ ?_ fun c hc => ?_
  · simp only [State.dataAddress, Config.memorySize]; omega
  · have := outside_dataAddress hc
    simp only [State.dataAddress]; omega

/-- What a byte reads as after `l` has been stored from `I` on, inside memory, when its `k`-th byte is `f k`. -/
theorem State.writeBytes_eq_overlaid (s : State) (l : List Byte) (f : Nat → Byte) (b : Nat)
    (inside : s.index.toNat + l.length ≤ Config.memorySize) (hf : ∀ k, k < l.length → l.getD k 0 = f k) :
    (s.writeBytes (s.dataAddress 0) l).readByte b = overlaid s (s.dataAddress 0) l.length f b := by
  rw [State.writeBytes_readByte _ (s.dataAddress 0) _ _ inside, overlaid]
  split_ifs with h
  · exact hf _ (by omega)
  · rfl

/-- NNN as a 16-bit address (30_encoding.md R83). -/
theorem absolute_eq (nnn : Imm12) : absolute nnn = BitVec.ofNat 16 nnn.toNat := by
  simp [absolute]

end Sys2Proof.Machine
end

