-- ==== Sys2Proof/Laws/PerInstr.lean ====
section
/-! SUPPORT. The per-instruction family `EncodesInItsRow`: the word the encoder writes for an instruction selects a row of the
opcode table that builds this very instruction (30_encoding.md R93), so no operand is dropped and no constraint is missed. -/

namespace Sys2Proof.Laws.EncodesInItsRow

/-- The word of a well-formed instruction selects a row of the opcode table, and the row's fields name the instruction. -/
def Statement (i : Instr) : Prop :=
  i.wf = true → ∃ r ∈ opcodeRows, r.selects (encode i) = true ∧ r.build (encode i) = i

/-- The field of a mask and a pattern either are both 0, or fit the field `a`. -/
theorem fits {a m p : Nibble} (h : (m = 0 ∧ p = 0) ∨ a &&& m = p) : (a &&& m == p) = true := by
  rcases h with ⟨rfl, rfl⟩ | h <;> simp_all

/-- A row, and the word as four nibbles, settle an instruction. -/
theorem of_row {i : Instr} {r : OpcodeRow} (hr : r ∈ opcodeRows) {f x y n : Nibble} (he : encode i = f ++ x ++ y ++ n)
    (hf : f &&& fieldF r.mask = fieldF r.pattern)
    (hy : (fieldY r.mask = 0 ∧ fieldY r.pattern = 0) ∨ y &&& fieldY r.mask = fieldY r.pattern)
    (hn : (fieldN r.mask = 0 ∧ fieldN r.pattern = 0) ∨ n &&& fieldN r.mask = fieldN r.pattern)
    (hw : r.nNonzero = false ∨ (i.wf = true → n ≠ 0)) (hb : r.build (f ++ x ++ y ++ n) = i) : Statement i := by
  intro h
  refine ⟨r, hr, ?_, he ▸ hb⟩
  rw [he, selects_nibbles, fits (.inr hf), fits (.inl (opcodeRows_ignore_x hr)), fits hy, fits hn]
  rcases hw with hw | hw
  · simp [hw]
  · simpa using .inr (hw h)

/-- The row at a place of the table. -/
theorem row_mem (k : Fin 34) : opcodeRows[k.val]'k.isLt ∈ opcodeRows := List.getElem_mem _

/-- RET's word as four nibbles. -/
theorem ret_nibbles (n : Nibble) : encode (.ret n) = 0x0#4 ++ 0x0#4 ++ 0xE#4 ++ n := by
  rw [word_ext_iff]; revert n; decide

theorem cls : Statement .cls :=
  of_row (row_mem 0) (f := 0) (x := 0) (y := 0xE) (n := 0) rfl (by decide) (.inl (by decide)) (.inr (by decide)) (.inl rfl)
    rfl

theorem ret (n : Nibble) : Statement (.ret n) :=
  of_row (row_mem 1) (ret_nibbles n) (by decide) (.inl (by decide)) (.inl (by decide)) (.inr fun h => by simpa [Instr.wf] using h)
    (congrArg _ (fieldN_nibbles ..))

theorem jp (nnn : Imm12) : Statement (.jp nnn) :=
  of_row (row_mem 2) (nibbles_of_imm12 ..) (by decide) (.inl (by decide)) (.inl (by decide)) (.inl rfl)
    (congrArg _ ((fieldNNN_nibbles ..).trans (imm12_eq_nibbles _).symm))

theorem call (nnn : Imm12) : Statement (.call nnn) :=
  of_row (row_mem 3) (nibbles_of_imm12 ..) (by decide) (.inl (by decide)) (.inl (by decide)) (.inl rfl)
    (congrArg _ ((fieldNNN_nibbles ..).trans (imm12_eq_nibbles _).symm))

theorem seImm (x : RegIdx) (nn : Byte) : Statement (.seImm x nn) :=
  of_row (row_mem 4) (nibbles_of_byte ..) (by decide) (.inl (by decide)) (.inl (by decide)) (.inl rfl)
    (congrArg₂ _ (fieldX_nibbles ..) ((fieldNN_nibbles ..).trans (byte_eq_nibbles _).symm))

theorem sneImm (x : RegIdx) (nn : Byte) : Statement (.sneImm x nn) :=
  of_row (row_mem 5) (nibbles_of_byte ..) (by decide) (.inl (by decide)) (.inl (by decide)) (.inl rfl)
    (congrArg₂ _ (fieldX_nibbles ..) ((fieldNN_nibbles ..).trans (byte_eq_nibbles _).symm))

theorem seReg (x y : RegIdx) : Statement (.seReg x y) :=
  of_row (row_mem 6) rfl (by decide) (.inl (by decide)) (.inl (by decide)) (.inl rfl)
    (congrArg₂ _ (fieldX_nibbles ..) (fieldY_nibbles ..))

theorem ldImm (x : RegIdx) (nn : Byte) : Statement (.ldImm x nn) :=
  of_row (row_mem 7) (nibbles_of_byte ..) (by decide) (.inl (by decide)) (.inl (by decide)) (.inl rfl)
    (congrArg₂ _ (fieldX_nibbles ..) ((fieldNN_nibbles ..).trans (byte_eq_nibbles _).symm))

theorem addImm (x : RegIdx) (nn : Byte) : Statement (.addImm x nn) :=
  of_row (row_mem 8) (nibbles_of_byte ..) (by decide) (.inl (by decide)) (.inl (by decide)) (.inl rfl)
    (congrArg₂ _ (fieldX_nibbles ..) ((fieldNN_nibbles ..).trans (byte_eq_nibbles _).symm))

theorem ldReg (x y : RegIdx) : Statement (.ldReg x y) :=
  of_row (row_mem 9) rfl (by decide) (.inl (by decide)) (.inr (by decide)) (.inl rfl)
    (congrArg₂ _ (fieldX_nibbles ..) (fieldY_nibbles ..))

theorem orReg (x y : RegIdx) : Statement (.orReg x y) :=
  of_row (row_mem 10) rfl (by decide) (.inl (by decide)) (.inr (by decide)) (.inl rfl)
    (congrArg₂ _ (fieldX_nibbles ..) (fieldY_nibbles ..))

theorem andReg (x y : RegIdx) : Statement (.andReg x y) :=
  of_row (row_mem 11) rfl (by decide) (.inl (by decide)) (.inr (by decide)) (.inl rfl)
    (congrArg₂ _ (fieldX_nibbles ..) (fieldY_nibbles ..))

theorem xorReg (x y : RegIdx) : Statement (.xorReg x y) :=
  of_row (row_mem 12) rfl (by decide) (.inl (by decide)) (.inr (by decide)) (.inl rfl)
    (congrArg₂ _ (fieldX_nibbles ..) (fieldY_nibbles ..))

theorem addReg (x y : RegIdx) : Statement (.addReg x y) :=
  of_row (row_mem 13) rfl (by decide) (.inl (by decide)) (.inr (by decide)) (.inl rfl)
    (congrArg₂ _ (fieldX_nibbles ..) (fieldY_nibbles ..))

theorem subReg (x y : RegIdx) : Statement (.subReg x y) :=
  of_row (row_mem 14) rfl (by decide) (.inl (by decide)) (.inr (by decide)) (.inl rfl)
    (congrArg₂ _ (fieldX_nibbles ..) (fieldY_nibbles ..))

theorem shr (x : RegIdx) : Statement (.shr x) :=
  of_row (row_mem 15) (nibbles_of_byte ..) (by decide) (.inl (by decide)) (.inr (by decide)) (.inl rfl)
    (congrArg _ (fieldX_nibbles ..))

theorem subnReg (x y : RegIdx) : Statement (.subnReg x y) :=
  of_row (row_mem 16) rfl (by decide) (.inl (by decide)) (.inr (by decide)) (.inl rfl)
    (congrArg₂ _ (fieldX_nibbles ..) (fieldY_nibbles ..))

theorem shre (x : RegIdx) : Statement (.shre x) :=
  of_row (row_mem 17) (nibbles_of_byte ..) (by decide) (.inl (by decide)) (.inr (by decide)) (.inl rfl)
    (congrArg _ (fieldX_nibbles ..))

theorem sneReg (x y : RegIdx) : Statement (.sneReg x y) :=
  of_row (row_mem 18) rfl (by decide) (.inl (by decide)) (.inl (by decide)) (.inl rfl)
    (congrArg₂ _ (fieldX_nibbles ..) (fieldY_nibbles ..))

theorem ldI (nnn : Imm12) : Statement (.ldI nnn) :=
  of_row (row_mem 19) (nibbles_of_imm12 ..) (by decide) (.inl (by decide)) (.inl (by decide)) (.inl rfl)
    (congrArg _ ((fieldNNN_nibbles ..).trans (imm12_eq_nibbles _).symm))

theorem jpV0 (nnn : Imm12) : Statement (.jpV0 nnn) :=
  of_row (row_mem 20) (nibbles_of_imm12 ..) (by decide) (.inl (by decide)) (.inl (by decide)) (.inl rfl)
    (congrArg _ ((fieldNNN_nibbles ..).trans (imm12_eq_nibbles _).symm))

theorem rnd (x : RegIdx) (nn : Byte) : Statement (.rnd x nn) :=
  of_row (row_mem 21) (nibbles_of_byte ..) (by decide) (.inl (by decide)) (.inl (by decide)) (.inl rfl)
    (congrArg₂ _ (fieldX_nibbles ..) ((fieldNN_nibbles ..).trans (byte_eq_nibbles _).symm))

theorem drw (x y : RegIdx) (n : Nibble) : Statement (.drw x y n) :=
  of_row (row_mem 22) rfl (by decide) (.inl (by decide)) (.inl (by decide)) (.inl rfl)
    (by rw [← fieldX_nibbles 0xD x y n]; simp [opcodeRows, opcodeRows1, opcodeRows2, opcodeRows3, opcodeRows4])

theorem skp (x : RegIdx) : Statement (.skp x) :=
  of_row (row_mem 23) (nibbles_of_byte ..) (by decide) (.inl (by decide)) (.inr (by decide)) (.inl rfl)
    (congrArg _ (fieldX_nibbles ..))

theorem sknp (x : RegIdx) : Statement (.sknp x) :=
  of_row (row_mem 24) (nibbles_of_byte ..) (by decide) (.inl (by decide)) (.inr (by decide)) (.inl rfl)
    (congrArg _ (fieldX_nibbles ..))

theorem ldB (x : RegIdx) : Statement (.ldB x) :=
  of_row (row_mem 25) (nibbles_of_byte ..) (by decide) (.inl (by decide)) (.inr (by decide)) (.inl rfl)
    (congrArg _ (fieldX_nibbles ..))

theorem ld15 (x : RegIdx) : Statement (.ld15 x) :=
  of_row (row_mem 26) (nibbles_of_byte ..) (by decide) (.inr (by decide)) (.inr (by decide)) (.inl rfl)
    (congrArg _ (fieldX_nibbles ..))

theorem storeRegs (x : RegIdx) : Statement (.storeRegs x) :=
  of_row (row_mem 27) (nibbles_of_byte ..) (by decide) (.inr (by decide)) (.inr (by decide)) (.inl rfl)
    (congrArg _ (fieldX_nibbles ..))

theorem loadRegs (x : RegIdx) : Statement (.loadRegs x) :=
  of_row (row_mem 28) (nibbles_of_byte ..) (by decide) (.inr (by decide)) (.inr (by decide)) (.inl rfl)
    (congrArg _ (fieldX_nibbles ..))

theorem ldDt (x : RegIdx) : Statement (.ldDt x) :=
  of_row (row_mem 29) (nibbles_of_byte ..) (by decide) (.inl (by decide)) (.inr (by decide)) (.inl rfl)
    (congrArg _ (fieldX_nibbles ..))

theorem ldSt (x : RegIdx) : Statement (.ldSt x) :=
  of_row (row_mem 30) (nibbles_of_byte ..) (by decide) (.inl (by decide)) (.inr (by decide)) (.inl rfl)
    (congrArg _ (fieldX_nibbles ..))

theorem ldF (x : RegIdx) : Statement (.ldF x) :=
  of_row (row_mem 31) (nibbles_of_byte ..) (by decide) (.inl (by decide)) (.inr (by decide)) (.inl rfl)
    (congrArg _ (fieldX_nibbles ..))

theorem ldK (x : RegIdx) : Statement (.ldK x) :=
  of_row (row_mem 32) (nibbles_of_byte ..) (by decide) (.inl (by decide)) (.inr (by decide)) (.inl rfl)
    (congrArg _ (fieldX_nibbles ..))

theorem addI (x : RegIdx) : Statement (.addI x) :=
  of_row (row_mem 33) (nibbles_of_byte ..) (by decide) (.inl (by decide)) (.inr (by decide)) (.inl rfl)
    (congrArg _ (fieldX_nibbles ..))

end Sys2Proof.Laws.EncodesInItsRow
end

