-- ==== Sys2Proof/Laws/Step.lean ====
section
/-! SUPPORT. What one step of the machine is, transaction by transaction, and what the execution cycle adds around `exec`. -/

namespace Sys2Proof.Machine

@[simp] theorem thenNext_next (t : State) (f : State → State) : thenNext (.next t) f = .next (f t) := rfl

/-- The step of a machine with a scheduled transaction is that transaction. -/
theorem step_scheduled {s : State} {t : Transaction} {rest : List Transaction} (h : s.schedule = t :: rest) :
    step s = transact t (s.setSchedule rest) := by
  simp only [step, nextTransaction, h]

/-- The step of a machine with nothing scheduled is a free-running step. -/
theorem step_free {s : State} (h : s.schedule = []) : step s = freeStep s := by
  simp only [step, nextTransaction, h]

/-- A scheduled step whose time does not run backwards. -/
theorem step_of_stepScheduled {s : State} {now : Nat} {rnd : Byte} {rest : List Transaction}
    (h : StepScheduled s now rnd rest) : step s = stepTransaction now rnd (s.setSchedule rest) := by
  rw [step_scheduled h.1, transact, atTime, if_neg]
  simpa using h.2

/-- The three run states (10_state.md R37). -/
theorem State.runState_running {s : State} : s.runState = .running ↔ s.fault.valid = false ∧ s.lock.active = false := by
  unfold State.runState; cases s.fault.valid <;> cases s.lock.active <;> simp

/-- A RUNNING machine's step is its execution part (40_execution_cycle.md R111). -/
theorem guardedPart_running {s : State} (h : s.runState = .running) : guardedPart s = executionPart s := by
  simp only [guardedPart, h]

/-- A FAULTED or AWAITING_KEY machine's step executes nothing (40_execution_cycle.md R112, R113). -/
theorem guardedPart_suspended {s : State} (h : s.runState ≠ .running) : guardedPart s = .next s := by
  unfold guardedPart; split <;> simp_all

/-- The execution part at a fetchable `pc` (40_execution_cycle.md R114, R117, R118). -/
theorem executionPart_fetched {s : State} (h : s.pc.toNat ≤ 0xFFE) :
    executionPart s =
      match decode s.opcodeAt with
      | .ok i => exec i s
      | .error _ => .next (s.unknownOpcode s.opcodeAt) := by
  unfold executionPart
  exact if_pos ((inRange_iff _ _).2 (by omega))

/-- The execution part at a `pc` with no fetchable word (40_execution_cycle.md R114). -/
theorem executionPart_outOfRange {s : State} (h : 0xFFE < s.pc.toNat) :
    executionPart s = .next (s.raiseFault .fetchOutOfRange s.pc) := by
  rw [executionPart, if_neg fun k => absurd ((inRange_iff _ _).1 k) (by omega)]

/-- A timer after the decay is its value less the whole seconds elapsed, floored at zero (60_exceptions.md R277 (a)). -/
theorem decayed_toNat (e : Nat) (t : Byte) : (decayed e t).toNat = t.toNat - e := by
  have := t.isLt
  unfold decayed
  split_ifs with h1 h2
  · simp; omega
  · rw [BitVec.toNat_ofNat, Nat.mod_eq_of_lt (by omega)]
  · omega

/-- What a step does, whatever the run state: the execution part's next state, with its timers decayed. -/
theorem stepTransaction_of_guarded {now : Nat} {rnd : Byte} {s t : State} (h : guardedPart (s.latch now rnd) = .next t) :
    stepTransaction now rnd s = .next (t.timerDecay now) := by
  rw [stepTransaction, h]; rfl

/-- A step of a FAULTED or AWAITING_KEY machine samples its inputs and decays the timers (40_execution_cycle.md R112, R113). -/
theorem stepTransaction_suspended {s : State} (h : s.runState ≠ .running) (now : Nat) (rnd : Byte) :
    stepTransaction now rnd s = .next ((s.latch now rnd).timerDecay now) :=
  stepTransaction_of_guarded (guardedPart_suspended (s := s.latch now rnd) h)

/-- A transaction that samples the time answers a next state only if the time does not run backwards. -/
theorem atTime_eq_next {now : Nat} {s t : State} {m : Result} (h : atTime now s m = .next t) :
    s.now ≤ now ∧ m = .next t := by
  unfold atTime at h
  split at h
  · cases h
  · exact ⟨by omega, h⟩

/-- The two ways a step answers a next state. -/
theorem step_next_cases {s t : State} (h : step s = .next t) :
    (s.schedule = [] ∧ freeStep s = .next t) ∨
      ∃ tr rest, s.schedule = tr :: rest ∧ transact tr (s.setSchedule rest) = .next t := by
  cases hs : s.schedule with
  | nil => rw [step_free hs] at h; exact .inl ⟨rfl, h⟩
  | cons a r => rw [step_scheduled hs] at h; exact .inr ⟨a, r, rfl, h⟩

/-- Reset memory has the canonical form. -/
theorem State.hostReset_wf (s : State) (now : Nat) : Memory.wf (s.hostReset now).params.font (s.hostReset now).mem := by
  simp [Memory.wf, State.hostReset, State.resetWith]

/-- A loaded program's memory has the canonical form. -/
theorem State.hostLoad_wf (s : State) (bytes : List Byte) (now : Nat) :
    Memory.wf (s.hostLoad bytes now).params.font (s.hostLoad bytes now).mem :=
  Memory.writeBytes_wf _ bytes _ (s.hostReset_wf now)

end Sys2Proof.Machine
end

