-- ==== Sys2Proof/Tests/Slice0.lean ====
section
/-! SUPPORT. The smoke test of WellFormed, the decoding of every constructor, small one-step tests, and a witness for every
obligation that has hypotheses. Expected results come from the vectors of 95_test_vectors.md (named V-… and S…) or from the
rule a comment names. -/

namespace Sys2Proof.Tests

open Sys2Proof.Machine

/-! ### WellFormed -/

/-- RET's constraint N ≠ 0 (30_encoding.md R93, row 2): the ill-formed term is refused. -/
theorem test_wf_refuses_ret_zero : Instr.wf (.ret 0) = false := by decide

/-- The same check at its boundary, and a form without a constraint. -/
theorem test_wf_accepts : Instr.wf (.ret 1) = true ∧ Instr.wf (.ret 0xF) = true ∧ Instr.wf .cls = true := by decide

/-! ### Decoding: words written out from the patterns of 30_encoding.md R93, first byte high (20_memory.md R52) -/

/-- Family 0: `0??0` and `0??N`. -/
theorem test_decode_family0 :
    decodeBytes [0x00, 0xE0] = .ok (.cls, []) ∧ decodeBytes [0x0A, 0xB0] = .ok (.cls, []) ∧
    decodeBytes [0x00, 0xEE] = .ok (.ret 0xE, []) ∧ decodeBytes [0x00, 0x01] = .ok (.ret 1, []) := by decide

/-- Families 1, 2, A and B: `FNNN`. -/
theorem test_decode_nnn :
    decodeBytes [0x12, 0x34] = .ok (.jp 0x234, []) ∧ decodeBytes [0x2F, 0xED] = .ok (.call 0xFED, []) ∧
    decodeBytes [0xA3, 0x01] = .ok (.ldI 0x301, []) ∧ decodeBytes [0xB9, 0x87] = .ok (.jpV0 0x987, []) := by decide

/-- Families 3, 4, 6, 7 and C: `FXNN`. -/
theorem test_decode_xnn :
    decodeBytes [0x3A, 0x42] = .ok (.seImm 0xA 0x42, []) ∧ decodeBytes [0x4B, 0x24] = .ok (.sneImm 0xB 0x24, []) ∧
    decodeBytes [0x65, 0x0F] = .ok (.ldImm 5 0x0F, []) ∧ decodeBytes [0x7A, 0xFE] = .ok (.addImm 0xA 0xFE, []) ∧
    decodeBytes [0xC3, 0x81] = .ok (.rnd 3 0x81, []) := by decide

/-- Families 5, 9 and D: `FXY?` and `DXYN`. -/
theorem test_decode_xy :
    decodeBytes [0x51, 0x27] = .ok (.seReg 1 2, []) ∧ decodeBytes [0x93, 0x4A] = .ok (.sneReg 3 4, []) ∧
    decodeBytes [0xD5, 0x6C] = .ok (.drw 5 6 0xC, []) := by decide

/-- Family 8: N selects. -/
theorem test_decode_family8 :
    decodeBytes [0x81, 0x20] = .ok (.ldReg 1 2, []) ∧ decodeBytes [0x83, 0x41] = .ok (.orReg 3 4, []) ∧
    decodeBytes [0x85, 0x62] = .ok (.andReg 5 6, []) ∧ decodeBytes [0x87, 0x83] = .ok (.xorReg 7 8, []) ∧
    decodeBytes [0x89, 0xA4] = .ok (.addReg 9 0xA, []) ∧ decodeBytes [0x8B, 0xC5] = .ok (.subReg 0xB 0xC, []) ∧
    decodeBytes [0x8D, 0xE6] = .ok (.shr 0xD, []) ∧ decodeBytes [0x8F, 0x17] = .ok (.subnReg 0xF 1, []) ∧
    decodeBytes [0x82, 0x3E] = .ok (.shre 2, []) := by decide

/-- Family E: N selects; 9E and A1 give SKNP and SKP. -/
theorem test_decode_familyE :
    decodeBytes [0xE3, 0xA1] = .ok (.skp 3, []) ∧ decodeBytes [0xE4, 0x9E] = .ok (.sknp 4, []) := by decide

/-- Family F: N selects, and Y for N = 5. -/
theorem test_decode_familyF :
    decodeBytes [0xF1, 0x33] = .ok (.ldB 1, []) ∧ decodeBytes [0xF2, 0x15] = .ok (.ld15 2, []) ∧
    decodeBytes [0xF3, 0x55] = .ok (.storeRegs 3, []) ∧ decodeBytes [0xF4, 0x65] = .ok (.loadRegs 4, []) ∧
    decodeBytes [0xF5, 0x07] = .ok (.ldDt 5, []) ∧ decodeBytes [0xF6, 0x18] = .ok (.ldSt 6, []) ∧
    decodeBytes [0xF7, 0x29] = .ok (.ldF 7, []) ∧ decodeBytes [0xF8, 0x0A] = .ok (.ldK 8, []) ∧
    decodeBytes [0xF9, 0x1E] = .ok (.addI 9, []) := by decide

/-- Unknown opcodes (30_encoding.md R90) and too few bytes (R80) are rejected by name; the rest of the bytes is handed back. -/
theorem test_decode_rejects :
    decodeBytes [0x81, 0x28] = .error (.unknownOpcode 0x8128) ∧ decodeBytes [0xF1, 0x25] = .error (.unknownOpcode 0xF125) ∧
    decodeBytes [0xE1, 0x2F] = .error (.unknownOpcode 0xE12F) ∧ decodeBytes [0x60] = .error .truncated ∧
    decodeBytes [] = .error .truncated ∧ decodeBytes [0x12, 0x34, 0x56] = .ok (.jp 0x234, [0x56]) := by decide

/-- A table word's bits are numbered from the low end of the one word. -/
theorem test_decodeTableWord : decodeTableWord 16 0x6005 = some (.ldImm 0 5) ∧ decodeTableWord 16 0xF125 = none := by decide

/-! ### One step -/

/-- The reset machine with `op` at 0x200 and a change. -/
def at200 (op : Word) (change : State → State := id) : State :=
  (change (State.reset.placeOpcode op)).setSchedule [.step 0 0]

/-- Whether a result is a next state with this property. -/
def nextHas (r : Result) (p : State → Bool) : Bool :=
  match r with
  | .next t => p t
  | .fault _ => false
  | .refused _ => false

/-- A step at 0x200 of `op`, from the reset machine with a change. -/
def runs (op : Word) (change : State → State) (p : State → Bool) : Bool := nextHas (step (at200 op change)) p

/-- V-C1. -/
theorem test_ret_pops : runs 0x00EE (·.setStack [0x300]) (fun t => t.pc == 0x300 && t.stack == []) = true := by decide
/-- V-C2. -/
theorem test_ret_empty : runs 0x00EE id (fun t => t.pc == 0x202 && !t.fault.valid && t.outputs == []) = true := by decide
/-- V-C4. -/
theorem test_jp : runs 0x1234 id (fun t => t.pc == 0x234) = true := by decide
/-- V-C5. -/
theorem test_jp_zero : runs 0x1000 id (fun t => t.pc == 0 && !t.fault.valid) = true := by decide
/-- V-C7, at 0x200. -/
theorem test_call : runs 0x2400 id (fun t => t.pc == 0x400 && t.stack == [0x200]) = true := by decide
/-- V-C8. -/
theorem test_call_overflow : runs 0x2400 (·.setStack (List.replicate 16 0x300)) (fun t =>
    t.fault == { valid := true, cause := 4, pc := 0x200, opcode := 0x2400, value := 16 } && t.pc == 0x200 &&
      t.stack.length == 16) = true := by decide
/-- V-C9. -/
theorem test_jpV0 : runs 0xB300 (·.setV 0 0x10) (fun t => t.pc == 0x310) = true := by decide
/-- V-C10. -/
theorem test_jpV0_wide : runs 0xBFFF (·.setV 0 0xFF) (fun t => t.pc == 0x10FE) = true := by decide

/-- V-K1 and V-K2. -/
theorem test_seImm : runs 0x3A42 (·.setV 0xA 0x42) (fun t => t.pc == 0x204) = true ∧
    runs 0x3A42 (·.setV 0xA 0x41) (fun t => t.pc == 0x202) = true := by decide
/-- V-K3 and V-K4. -/
theorem test_sneImm : runs 0x4A42 (·.setV 0xA 0x42) (fun t => t.pc == 0x202) = true ∧
    runs 0x4A42 (·.setV 0xA 0x41) (fun t => t.pc == 0x204) = true := by decide
/-- V-K5. -/
theorem test_seReg : runs 0x5127 (fun s => (s.setV 1 9).setV 2 9) (fun t => t.pc == 0x204) = true := by decide
/-- V-K6 and V-K7. -/
theorem test_sneReg : runs 0x9120 (fun s => (s.setV 1 9).setV 2 8) (fun t => t.pc == 0x204) = true ∧
    runs 0x9120 (fun s => (s.setV 1 9).setV 2 9) (fun t => t.pc == 0x202) = true := by decide
/-- V-K8 and V-K9. -/
theorem test_skp : runs 0xE3A1 (fun s => (s.setV 3 5).setKey 5 true) (fun t => t.pc == 0x204) = true ∧
    runs 0xE3A1 (·.setV 3 5) (fun t => t.pc == 0x202) = true := by decide
/-- V-K12. -/
theorem test_skp_fault : runs 0xE3A1 (·.setV 3 0x10) (fun t =>
    t.fault == { valid := true, cause := 3, pc := 0x200, opcode := 0xE3A1, value := 0x10 } && t.pc == 0x200) = true := by
  decide
/-- V-K10 and V-K11. -/
theorem test_sknp : runs 0xE39E (fun s => (s.setV 3 5).setKey 5 true) (fun t => t.pc == 0x202) = true ∧
    runs 0xE39E (·.setV 3 5) (fun t => t.pc == 0x204) = true := by decide

/-- V-A1. -/
theorem test_ldImm : runs 0x6A7F id (fun t => t.v 0xA == 0x7F) = true := by decide
/-- V-A2. -/
theorem test_addImm : runs 0x7AFF (fun s => (s.setV 0xA 2).setV vf 1) (fun t => t.v 0xA == 1 && t.v vf == 1) = true := by
  decide
/-- V-A3. -/
theorem test_ldReg : runs 0x8120 (fun s => ((s.setV 1 1).setV 2 0x55).setV vf 7)
    (fun t => t.v 1 == 0x55 && t.v 2 == 0x55 && t.v vf == 7) = true := by decide
/-- V-A4. -/
theorem test_orReg : runs 0x8121 (fun s => ((s.setV 1 0xF0).setV 2 0x0F).setV vf 7)
    (fun t => t.v 1 == 0xFF && t.v vf == 7) = true := by decide
/-- V-A5. -/
theorem test_andReg : runs 0x8122 (fun s => (s.setV 1 0xF0).setV 2 0x3C) (fun t => t.v 1 == 0x30) = true := by decide
/-- V-A6. -/
theorem test_xorReg : runs 0x8123 (fun s => (s.setV 1 0xF0).setV 2 0x3C) (fun t => t.v 1 == 0xCC) = true := by decide
/-- V-A7. -/
theorem test_addReg_carry : runs 0x8124 (fun s => (s.setV 1 0xFF).setV 2 1) (fun t => t.v 1 == 0 && t.v vf == 1) = true := by
  decide
/-- V-A9. -/
theorem test_addReg_vf : runs 0x8F24 (fun s => (s.setV vf 0xFF).setV 2 2) (fun t => t.v vf == 1) = true := by decide
/-- V-A10 and V-A12. -/
theorem test_subReg : runs 0x8125 (fun s => (s.setV 1 5).setV 2 3) (fun t => t.v 1 == 2 && t.v vf == 1) = true ∧
    runs 0x8125 (·.setV 1 5) (fun t => t.v 1 == 5 && t.v vf == 0) = true := by decide
/-- V-A13. -/
theorem test_subReg_wraps : runs 0x8125 (fun s => (s.setV 1 3).setV 2 5) (fun t => t.v 1 == 0xFE && t.v vf == 0) = true := by
  decide
/-- V-A14. -/
theorem test_shr : runs 0x8106 (·.setV 1 0x81) (fun t => t.v 1 == 0x40 && t.v vf == 1) = true := by decide
/-- V-A15. -/
theorem test_shr_vf : runs 0x8F06 (·.setV vf 2) (fun t => t.v vf == 0) = true := by decide
/-- V-A16 and V-A17. -/
theorem test_subnReg : runs 0x8127 (fun s => (s.setV 1 3).setV 2 5) (fun t => t.v 1 == 2 && t.v vf == 1) = true ∧
    runs 0x8127 (fun s => (s.setV 1 5).setV 2 5) (fun t => t.v 1 == 0 && t.v vf == 0) = true := by decide
/-- V-A19 and V-A20: the shift goes right. -/
theorem test_shre : runs 0x810E (·.setV 1 0x80) (fun t => t.v 1 == 0x40 && t.v vf == 0) = true ∧
    runs 0x812E (·.setV 1 0x81) (fun t => t.v 1 == 0x40 && t.v vf == 1) = true := by decide
/-- V-A21. -/
theorem test_rnd : nextHas (step ((at200 0xC30F).setSchedule [.step 0 0xAB])) (fun t => t.v 3 == 0x0B) = true := by decide
/-- V-A22. -/
theorem test_unknown_opcode : runs 0x8128 (fun s => (s.setV 1 1).setV 2 2) (fun t =>
    t.pc == 0x202 && t.v 1 == 1 && t.outputs == [.unknownOpcode 0x200 0x8128]) = true := by decide

/-- V-M1. -/
theorem test_ldI : runs 0xAFFF id (fun t => t.index == 0x0FFF) = true := by decide
/-- V-M2. -/
theorem test_addI_wraps : runs 0xF11E (fun s => (s.setIndex 0xFFF8).setV 1 0x10) (fun t => t.index == 8 && t.v vf == 0) = true := by
  decide
/-- V-M3 and V-M4. -/
theorem test_ldF : runs 0xF129 (·.setV 1 0x0A) (fun t => t.index == 0x32) = true ∧
    runs 0xF129 (·.setV 1 0xFF) (fun t => t.index == 0x4FB) = true := by decide
/-- V-M5; and 20_memory.md R65: at I = 0x203 the hundreds digit goes into the second byte of the next word alone. -/
theorem test_ldB : runs 0xF133 (fun s => (s.setV 1 254).setIndex 0x300) (fun t =>
      t.readBytes 0x300 3 == [2, 5, 4] && t.index == 0x300) = true ∧
    runs 0xF133 (fun s => ((s.writeBytes 0x202 [0x61, 0x77]).setV 1 254).setIndex 0x203) (fun t => t.opcodeAt == 0x6102) = true := by
  decide
/-- V-M7. -/
theorem test_ldB_fault : runs 0xF133 (fun s => (s.setV 1 7).setIndex 0xFFE) (fun t =>
    t.fault == { valid := true, cause := 2, pc := 0x200, opcode := 0xF133, value := 0xFFE } && t.pc == 0x200 &&
      t.readBytes 0xFFE 2 == [0, 0]) = true := by decide
/-- V-M8. -/
theorem test_storeRegs : runs 0xF255 (fun s => ((((s.setV 0 1).setV 1 2).setV 2 3).setV 3 4).setIndex 0x300) (fun t =>
    t.readBytes 0x300 4 == [1, 2, 3, 0] && t.index == 0x300) = true := by decide
/-- V-M10. -/
theorem test_storeRegs_fault : runs 0xF155 (fun s => ((s.setV 0 5).setV 1 6).setIndex 0xFFF) (fun t =>
    t.fault == { valid := true, cause := 2, pc := 0x200, opcode := 0xF155, value := 0xFFF } &&
      t.readByte 0xFFF == 0) = true := by decide
/-- V-M11. -/
theorem test_loadRegs : runs 0xF165 (fun s => (s.writeBytes 0x300 [9, 8, 7]).setIndex 0x300) (fun t =>
    t.v 0 == 9 && t.v 1 == 8 && t.v 2 == 0 && t.index == 0x300) = true := by decide

/-- V-T1. -/
theorem test_ldDt : runs 0xF307 (fun s => (s.setV 3 1).setTimers 9 0 0) (fun t => t.v 3 == 9 && t.dt == 9) = true := by decide
/-- V-T2. -/
theorem test_ld15 : runs 0xF315 (fun s => (s.setV 3 0x77).setTimers 9 0 0) (fun t => t.v 3 == 9 && t.dt == 9) = true := by
  decide
/-- V-T3. -/
theorem test_ldSt : runs 0xF218 (·.setV 2 0x3C) (fun t => t.st == 0x3C) = true := by decide
/-- V-T4. -/
theorem test_ldSt_decays : nextHas (step ((at200 0xF218 (·.setV 2 0x3C)).setSchedule [.step 1000 0]))
    (fun t => t.st == 0x3B && t.lastTick == 1000) = true := by decide
/-- V-T5. -/
theorem test_ldK : runs 0xF30A id (fun t => t.lock == { active := true, target := 3 } && t.pc == 0x202) = true := by decide
/-- V-T6. -/
theorem test_press : nextHas (step ((State.reset.setLock { active := true, target := 3 }).setSchedule [.pressKey 7]))
    (fun t => t.key 7 && t.v 3 == 7 && !t.lock.active) = true := by decide
/-- V-T7. -/
theorem test_release :
    nextHas (step (((State.reset.setLock { active := true, target := 3 }).setKey 7 true).setSchedule [.releaseKey 7]))
      (fun t => !t.key 7 && t.lock == { active := true, target := 3 }) = true := by decide

/-- S7, its first two rows. -/
theorem test_decay : nextHas (step ((at200 0x1200 (·.setTimers 10 10 0)).setSchedule [.step 1500 0]))
      (fun t => t.dt == 9 && t.st == 9 && t.lastTick == 1500) = true ∧
    nextHas (step ((at200 0x1200 (·.setTimers 9 9 1500)).setSchedule [.step 2499 0]))
      (fun t => t.dt == 9 && t.st == 9 && t.lastTick == 1500) = true := by decide
/-- S7, 300 seconds. -/
theorem test_decay_large : nextHas (step ((at200 0x1200 (·.setTimers 200 255 0)).setSchedule [.step 300000 0]))
    (fun t => t.dt == 0 && t.st == 0 && t.lastTick == 300000) = true := by decide

/-- V-F1. -/
theorem test_fetch_fault : nextHas (step ((State.reset.setPc 0xFFF).setSchedule [.step 0 0])) (fun t =>
    t.fault == { valid := true, cause := 1, pc := 0xFFF, opcode := 0, value := 0xFFF } && t.pc == 0xFFF) = true := by decide
/-- V-F3. -/
theorem test_fetch_last : nextHas (step (((State.reset.writeBytes 0xFFE [0x12, 0x00]).setPc 0xFFE).setSchedule [.step 0 0]))
    (fun t => t.pc == 0x200 && !t.fault.valid) = true := by decide

set_option maxRecDepth 4000 in
/-- V-D1: the leftmost pixel is bit 7. -/
theorem test_drw : runs 0xD231 (fun s => (s.writeBytes 0x300 [0xC0]).setIndex 0x300) (fun t =>
    t.screen.pixel 0 0 && t.screen.pixel 1 0 && !t.screen.pixel 2 0 && !t.screen.pixel 0 1 && t.v vf == 0) = true := by decide

set_option maxRecDepth 4000 in
/-- S6 and V-D4: a pixel that was on is turned off and reported, and the row wraps. -/
theorem test_drw_wraps : runs 0xD231 (fun s => ((s.writeBytes 0x300 [0xFF]).setIndex 0x300).setV 2 62 |>.setScreen
    (Screen.blank.toggle 5 0)) (fun t => t.screen.pixel 62 0 && t.screen.pixel 63 0 && t.screen.pixel 0 0 &&
      t.screen.pixel 4 0 && !t.screen.pixel 5 0 && !t.screen.pixel 6 0 && !t.screen.pixel 61 0 && t.v vf == 1) = true := by
  decide

set_option maxRecDepth 4000 in
/-- V-D7. -/
theorem test_cls : runs 0x00E0 (·.setScreen (Screen.blank.toggle 0 0)) (fun t =>
    !t.screen.pixel 0 0 && t.pc == 0x202) = true := by decide

/-- V-F6. -/
theorem test_load_too_long : step ((State.reset.setPc 0x300).setSchedule [.loadProgram (List.replicate 3585 0) 0]) =
    .next ((State.reset.setPc 0x300).emit .invalidProgram) := by
  rw [step_scheduled rfl, transact, if_pos (lt_of_lt_of_eq (by decide) List.length_replicate.symm)]
  rfl

/-- 70_reset_and_hazards.md R302: a load resets and copies. -/
theorem test_load : nextHas (step ((State.reset.setPc 0x300).setSchedule [.loadProgram [0x60, 0xFF] 0]))
    (fun t => t.outputs == [.loaded] && t.pc == 0x200 && t.readBytes 0x1FF 4 == [0, 0x60, 0xFF, 0]) = true := by decide

/-- 70_reset_and_hazards.md R304: glyph 0 and the last row of glyph F, below address 80. -/
theorem test_font : State.reset.readBytes 0 5 = [0xF0, 0x90, 0x90, 0x90, 0xF0] ∧ State.reset.readByte 79 = 0x80 ∧
    State.reset.readByte 80 = 0 := by decide

/-! ### Witnesses: states and operands that meet the hypotheses of the obligations, clause by clause, at the ends of ranges -/

/-- The reset machine with `op` as its last fetchable word, at 0xFFE, and a step scheduled. -/
def atEnd (op : Word) (change : State → State := id) : State :=
  (change ((State.reset.setPc 0xFFE).placeOpcode op)).setSchedule [.step 0 0]

theorem witness_DecodeOfEncodeIsTheInstruction : Instr.wf (.ret 0xF) = true ∧ Instr.wf (.drw 0xF 0 0xF) = true := by decide

theorem witness_StepRunsTheDecodedInstruction :
    ((atEnd 0x8124).runState = .running ∧ (atEnd 0x8124).pc.toNat ≤ 0xFFE ∧
      decode (atEnd 0x8124).opcodeAt = .ok (.addReg 1 2) ∧ StepScheduled (atEnd 0x8124) 0 0 []) ∧
    (State.reset.runState = .running ∧ State.reset.pc.toNat ≤ 0xFFE ∧ decode State.reset.opcodeAt = .ok .cls ∧
      State.reset.schedule = []) := by
  refine ⟨⟨by decide, by decide, by decide, rfl, by decide⟩, by decide, by decide, by decide, rfl⟩

theorem witness_UnknownOpcodeIsReportedAndSkipped :
    StepScheduled (atEnd 0x8128) 0 0 [] ∧ (atEnd 0x8128).runState = .running ∧ (atEnd 0x8128).pc.toNat ≤ 0xFFE ∧
    decode (atEnd 0x8128).opcodeAt = .error (.unknownOpcode (atEnd 0x8128).opcodeAt) := by
  refine ⟨⟨rfl, by decide⟩, by decide, by decide, by decide⟩

/-- A machine that has faulted: V-K12's end state. -/
def faulted : State :=
  (State.reset.setFault { valid := true, cause := 3, pc := 0x200, opcode := 0xE3A1, value := 0x10 }).setSchedule [.step 0 0]

/-- A machine that waits for a key: V-T5's end state. -/
def waiting : State := (State.reset.setLock { active := true, target := 3 }).setSchedule [.step 0 0]

theorem witness_SuspendedStepOnlyDecaysTimers :
    (StepScheduled faulted 0 0 [] ∧ faulted.fault.valid = true) ∧
    (StepScheduled waiting 0 0 [] ∧ waiting.lock.active = true) := by
  refine ⟨⟨⟨rfl, by decide⟩, rfl⟩, ⟨rfl, by decide⟩, rfl⟩

theorem witness_FetchOutOfRangeIsRecorded :
    StepScheduled ((State.reset.setPc 0xFFF).setSchedule [.step 0 0]) 0 0 [] ∧
    ((State.reset.setPc 0xFFF).setSchedule [.step 0 0]).runState = .running ∧
    0xFFE < ((State.reset.setPc 0xFFF).setSchedule [.step 0 0]).pc.toNat := by
  refine ⟨⟨rfl, by decide⟩, by decide, by decide⟩

/-- For each of the four VF-last statements: a destination that is not VF, and one that is. -/
theorem witness_AddReportsCarry : (0xE : RegIdx) ≠ vf ∧ ¬ (0xF : RegIdx) ≠ vf := by decide
theorem witness_SubtractReportsResultBelowOriginal : (0 : RegIdx) ≠ vf ∧ ¬ (0xF : RegIdx) ≠ vf := by decide
theorem witness_ReverseSubtractReportsGreater : (1 : RegIdx) ≠ vf ∧ ¬ (0xF : RegIdx) ≠ vf := by decide
theorem witness_BothShiftsGoRight : (∀ i ∈ [Instr.shr 0xE, Instr.shre 0xE], i = .shr 0xE ∨ i = .shre 0xE) ∧
    (0xE : RegIdx) ≠ vf := by decide

theorem witness_CallPushesItsOwnAddress :
    let s := State.reset.setStack (List.replicate 15 0x300)
    s.stack.length ≠ s.params.stackDepth := by decide

theorem witness_ReturnPopsOrOnlyAdvances :
    State.reset.stack = [] ∧ (State.reset.setStack [0x300, 0x250]).stack = 0x300 :: [0x250] := by decide

theorem witness_ReturnLandsOnTheCall :
    State.reset.stack.length ≠ State.reset.params.stackDepth ∧
    ∃ t, exec (.call 0x400) State.reset = .next t ∧ (t.setPc 0xFFE).stack = t.stack := ⟨by decide, _, rfl, rfl⟩

theorem witness_SkipsOnKey :
    ((State.reset.setV 1 15).v 1).toNat = (15 : Nibble).toNat ∧ 15 < ((State.reset.setV 1 16).v 1).toNat := by decide

theorem witness_DecimalDigitsAreStored : (State.reset.setIndex 0xFFD).index.toNat + 2 ≤ 0xFFF := by decide

theorem witness_LowRegistersAreStored :
    (State.reset.setIndex 0xFF0).index.toNat + (15 : RegIdx).toNat ≤ 0xFFF ∧ (15 : RegIdx).toNat ≤ (15 : RegIdx).toNat ∧
    (State.reset.setIndex 0xFFF).index.toNat + (0 : RegIdx).toNat ≤ 0xFFF := by decide

theorem witness_LowRegistersAreLoaded :
    (State.reset.setIndex 0xFF0).index.toNat + (15 : RegIdx).toNat ≤ 0xFFF ∧ (0 : RegIdx).toNat ≤ (15 : RegIdx).toNat ∧
    (State.reset.setIndex 0xFFF).index.toNat + (0 : RegIdx).toNat ≤ 0xFFF := by decide

theorem witness_WriteChangesOnlyTheByteWritten : 0xFFF ≤ 0xFFF ∧ (0xFFF = 0xFFF) ∧ ¬ (0xFFE = 0xFFF) := by decide

theorem witness_DelayTimerIsRead :
    (StepScheduled (atEnd 0xF307) 0 0 [] ∧ (atEnd 0xF307).runState = .running ∧ (atEnd 0xF307).pc.toNat ≤ 0xFFE ∧
      decode (atEnd 0xF307).opcodeAt = .ok (.ldDt 3)) ∧ decode (atEnd 0xFF15).opcodeAt = .ok (.ld15 0xF) := by
  refine ⟨⟨⟨rfl, by decide⟩, by decide, by decide, by decide⟩, by decide⟩

/-- The fixed bits of the encodings the statements name: each pattern with its other bits all 0, and with them all 1. -/
theorem witness_EncodedBy :
    (0x60FF : Word) &&& 0xF000 = 0x6000 ∧ (0x7FFF : Word) &&& 0xF000 = 0x7000 ∧ (0xCFFF : Word) &&& 0xF000 = 0xC000 ∧
    (0x3FFF : Word) &&& 0xF000 = 0x3000 ∧ (0x4000 : Word) &&& 0xF000 = 0x4000 ∧ (0x5FFF : Word) &&& 0xF000 = 0x5000 ∧
    (0x9FFF : Word) &&& 0xF000 = 0x9000 ∧ (0xAFFF : Word) &&& 0xF000 = 0xA000 ∧ (0xFFF9 : Word) &&& 0xF00F = 0xF009 ∧
    (0xFFF7 : Word) &&& 0xF00F = 0xF007 ∧ (0xFF15 : Word) &&& 0xF0FF = 0xF015 ∧ (0xFFF8 : Word) &&& 0xF00F = 0xF008 ∧
    (0x0FF0 : Word) &&& 0xF00F = 0x0000 := by decide

theorem witness_RandomIsMaskedByImmediate :
    StepScheduled ((atEnd 0xCF0F).setSchedule [.step 0 0xAB]) 0 0xAB [] ∧
    ((atEnd 0xCF0F).setSchedule [.step 0 0xAB]).runState = .running ∧
    ((atEnd 0xCF0F).setSchedule [.step 0 0xAB]).pc.toNat ≤ 0xFFE ∧
    decode ((atEnd 0xCF0F).setSchedule [.step 0 0xAB]).opcodeAt = .ok (.rnd 0xF 0x0F) := by
  refine ⟨⟨rfl, by decide⟩, by decide, by decide, by decide⟩

/-- Both stores, with the next word at 0x202: the last byte stored over its first byte only, the first byte stored over its
second only, and both of its bytes covered. -/
theorem witness_StoreIsSeenByTheNextFetch :
    (State.reset.pc + 2).toNat ≤ 0xFFE ∧
    ((State.reset.setIndex 0x200).index.toNat + 2 ≤ 0xFFF ∧ (State.reset.setIndex 0x200).dataAddress 2 = 0x202) ∧
    (State.reset.setIndex 0x203).index.toNat + 2 ≤ 0xFFF ∧
    (State.reset.setIndex 0x203).index.toNat + (0 : RegIdx).toNat ≤ 0xFFF ∧
    (State.reset.setIndex 0x202).index.toNat + (15 : RegIdx).toNat ≤ 0xFFF ∧
    (State.reset.setPc 0xFFC |>.setIndex 0xFFF).index.toNat + (0 : RegIdx).toNat ≤ 0xFFF ∧
    ((State.reset.setPc 0xFFC).pc + 2).toNat ≤ 0xFFE := by decide

theorem witness_SoundTimerIsSetThenDecays :
    StepScheduled (atEnd 0xF218) 0 0 [] ∧ (atEnd 0xF218).runState = .running ∧ (atEnd 0xF218).pc.toNat ≤ 0xFFE ∧
    decode (atEnd 0xF218).opcodeAt = .ok (.ldSt 2) := by
  refine ⟨⟨rfl, by decide⟩, by decide, by decide, by decide⟩

theorem witness_PressResolvesTheLock :
    (waiting.setSchedule [.pressKey 0xF]).schedule = .pressKey 0xF :: [] ∧
    ((waiting.setSchedule [.pressKey 0xF]).lock.active = true ∧ 3 = (waiting.setSchedule [.pressKey 0xF]).lock.target) ∧
    (State.reset.setSchedule [.pressKey 0]).schedule = .pressKey 0 :: [] := by decide

theorem witness_ReleaseOnlyLiftsTheKey : (waiting.setSchedule [.releaseKey 0xF]).schedule = .releaseKey 0xF :: [] := by decide

/-- A machine about to draw two rows from 0xFFE, with a pixel under the sprite on and another off. -/
def drawing : State := ((State.reset.writeBytes 0xFFE [0xC0, 0x80]).setIndex 0xFFE).setScreen (Screen.blank.toggle 1 0)

theorem witness_DrawComplementsCoveredPixels :
    drawing.index.toNat + (2 : Nibble).toNat - 1 ≤ 0xFFF ∧ (0 : Nibble).toNat = 0 ∧
    (∃ u v, spriteCovers (drawing.v 0).toNat (drawing.v 1).toNat (drawing.readBytes (drawing.dataAddress 0) 2) u v ∧
      drawing.screen.pixel u v = true) ∧
    (¬ ∃ u v, spriteCovers (drawing.v 0).toNat (drawing.v 1).toNat (drawing.readBytes (drawing.dataAddress 0) 0) u v ∧
      drawing.screen.pixel u v = true) := by
  refine ⟨by decide, by decide, ⟨1, 0, ⟨0, 1, by decide, by decide, by decide, by decide, by decide⟩, by decide⟩, ?_⟩
  rintro ⟨u, v, ⟨r, c, hr, -⟩, -⟩
  exact absurd hr (Nat.not_lt_zero _)

theorem witness_DrawingTwiceRestoresTheScreen :
    drawing.index.toNat + (2 : Nibble).toNat - 1 ≤ 0xFFF ∧
    ∃ t, exec (.drw 0 1 2) drawing = .next t ∧
      t.v 0 = drawing.v 0 ∧ t.v 1 = drawing.v 1 ∧ t.index = drawing.index ∧
      (∀ k, k < 2 → t.readByte (t.dataAddress k) = drawing.readByte (drawing.dataAddress k)) ∧ t.screen = t.screen :=
  ⟨by decide, _, rfl, rfl, rfl, rfl, fun _ _ => rfl, rfl⟩

/-- One fault of each cause an instruction raises, at the first failing value. -/
theorem witness_FaultingInstructionOnlyRecords :
    faultOf (.call 0x400) (State.reset.setStack (List.replicate 16 0)) = some (.stackOverflow, 16) ∧
    faultOf (.skp 1) (State.reset.setV 1 16) = some (.keyIndexOutOfRange, 16) ∧
    faultOf (.sknp 1) (State.reset.setV 1 16) = some (.keyIndexOutOfRange, 16) ∧
    faultOf (.drw 0 0 2) (State.reset.setIndex 0xFFF) = some (.dataOutOfRange, 0xFFF) ∧
    faultOf (.ldB 0) (State.reset.setIndex 0xFFE) = some (.dataOutOfRange, 0xFFE) ∧
    faultOf (.storeRegs 1) (State.reset.setIndex 0xFFF) = some (.dataOutOfRange, 0xFFF) ∧
    faultOf (.loadRegs 1) (State.reset.setIndex 0xFFF) = some (.dataOutOfRange, 0xFFF) := by decide

/-- No fault, at the last value that is in range. -/
theorem witness_InstructionStaysInItsFootprint :
    faultOf (.call 0x400) (State.reset.setStack (List.replicate 15 0)) = none ∧
    faultOf (.skp 1) (State.reset.setV 1 15) = none ∧ faultOf (.sknp 1) (State.reset.setV 1 15) = none ∧
    faultOf (.drw 0 0 1) (State.reset.setIndex 0xFFF) = none ∧ faultOf (.drw 0 0 0) (State.reset.setIndex 0xFFFF) = none ∧
    faultOf (.ldB 0) (State.reset.setIndex 0xFFD) = none ∧ faultOf (.storeRegs 0) (State.reset.setIndex 0xFFF) = none ∧
    faultOf (.loadRegs 15) (State.reset.setIndex 0xFF0) = none ∧ faultOf .cls State.reset = none := by decide

/-- Each way on from a fault: a construction, a reset and the largest load reset it; a step, a press and a load that is one byte
too long do not. -/
theorem witness_FaultIsStickyUntilReset :
    faulted.fault.valid = true ∧
    (ResetScheduled (faulted.setSchedule [.construct 0]) 0 ∧ ∃ t, step (faulted.setSchedule [.construct 0]) = .next t) ∧
    (ResetScheduled (faulted.setSchedule [.reset 0]) 0 ∧ ∃ t, step (faulted.setSchedule [.reset 0]) = .next t) ∧
    (ResetScheduled (faulted.setSchedule [.loadProgram (List.replicate 3584 1) 0]) 0 ∧
      ∃ t, step (faulted.setSchedule [.loadProgram (List.replicate 3584 1) 0]) = .next t) ∧
    ((¬ ∃ now, ResetScheduled faulted now) ∧ ∃ t, step faulted = .next t) ∧
    ((¬ ∃ now, ResetScheduled (faulted.setSchedule [.pressKey 7]) now) ∧
      ∃ t, step (faulted.setSchedule [.pressKey 7]) = .next t) ∧
    ¬ ∃ now, ResetScheduled (faulted.setSchedule [.loadProgram (List.replicate 3585 1) 0]) now := by
  refine ⟨rfl, ⟨⟨[], .inl rfl⟩, _, rfl⟩, ⟨⟨[], .inr (.inl rfl)⟩, _, rfl⟩,
    ⟨⟨[], .inr (.inr ⟨_, List.length_replicate.le, rfl⟩)⟩, _, by
      rw [step_scheduled rfl, transact, if_neg (not_lt.2 List.length_replicate.le), atTime, if_neg (by decide)]⟩,
    ⟨?_, _, rfl⟩, ⟨?_, _, rfl⟩, ?_⟩
  · rintro ⟨now, rest, h | h | ⟨b, -, h⟩⟩ <;> cases h
  · rintro ⟨now, rest, h | h | ⟨b, -, h⟩⟩ <;> cases h
  · rintro ⟨now, rest, h | h | ⟨b, hb, h⟩⟩
    · cases h
    · cases h
    · injection h with h
      injection h with h
      subst h
      exact absurd (List.length_replicate.symm.le.trans hb) (by decide)

/-- Each way out of the lock. -/
theorem witness_LockIsLeftOnlyByPressOrReset :
    waiting.lock.active = true ∧
    (∃ t, step (waiting.setSchedule [.pressKey 7]) = .next t ∧ t.lock ≠ waiting.lock) ∧
    (∃ t, step (waiting.setSchedule [.construct 0]) = .next t ∧ t.lock ≠ waiting.lock) ∧
    (∃ t, step (waiting.setSchedule [.reset 0]) = .next t ∧ t.lock ≠ waiting.lock) ∧
    ∃ t, step (waiting.setSchedule [.loadProgram [] 0]) = .next t ∧ t.lock ≠ waiting.lock :=
  ⟨rfl, ⟨_, rfl, by decide⟩, ⟨_, rfl, by decide⟩, ⟨_, rfl, by decide⟩, _, rfl, by decide⟩

theorem witness_SelfJumpChangesOnlyTimers :
    StepScheduled (atEnd 0x1FFE) 0 0 [] ∧ (atEnd 0x1FFE).runState = .running ∧ (atEnd 0x1FFE).pc.toNat ≤ 0xFFE ∧
    decode (atEnd 0x1FFE).opcodeAt = .ok (.jp 0xFFE) ∧ (atEnd 0x1FFE).pc.toNat = (0xFFE : Imm12).toNat := by
  refine ⟨⟨rfl, by decide⟩, by decide, by decide, by decide, by decide⟩

theorem witness_ResetEstablishesTheResetState :
    (faulted.setSchedule [.construct 0]).schedule = .construct 0 :: [] ∧
    (faulted.setSchedule [.reset 0]).schedule = .reset 0 :: [] ∧ faulted.now ≤ 0 := by decide

theorem witness_TimersAreZeroAfterReset :
    (faulted.setSchedule [.construct 0]).schedule = .construct 0 :: [] ∧
    (faulted.setSchedule [.reset 0]).schedule = .reset 0 :: [] ∧
    (faulted.setSchedule [.loadProgram [] 0]).schedule = .loadProgram [] 0 :: [] ∧ ([] : List Byte).length ≤ 3584 ∧
    faulted.now ≤ 0 := by decide

/-- The largest image. -/
theorem witness_LoadResetsAndCopiesTheImage :
    (State.reset.setSchedule [.loadProgram (List.replicate 3584 1) 0]).schedule =
      .loadProgram (List.replicate 3584 1) 0 :: [] ∧ State.reset.now ≤ 0 ∧
    (List.replicate 3584 (1 : Byte)).length ≤ 3584 := ⟨rfl, le_rfl, List.length_replicate.le⟩

/-- The smallest image that is too large. -/
theorem witness_TooLongImageChangesNothing :
    (State.reset.setSchedule [.loadProgram (List.replicate 3585 1) 0]).schedule =
      .loadProgram (List.replicate 3585 1) 0 :: [] ∧ 3584 < (List.replicate 3585 (1 : Byte)).length :=
  ⟨rfl, lt_of_lt_of_eq (by decide) List.length_replicate.symm⟩

theorem witness_ScreenReadIsRowMajorAndChangesNothing :
    (drawing.setSchedule [.getScreen]).schedule = .getScreen :: [] ∧ 63 < 64 ∧ 31 < 32 := ⟨rfl, by decide, by decide⟩

theorem witness_FaultReadChangesNothing : (faulted.setSchedule [.getFault]).schedule = .getFault :: [] := rfl

/-- A state that meets the invariant and has a next state. -/
theorem witness_EveryStepKeepsTheInvariant : State.reset.Inv ∧ ∃ t, step State.reset = .next t := by
  refine ⟨⟨⟨List.Pairwise.nil, fun _ h => absurd h List.not_mem_nil⟩, Nat.zero_le _, by decide, le_rfl⟩, ?_⟩
  rw [step_free rfl]
  exact ⟨_, rfl⟩

theorem witness_DelayTimerNeverRises :
    nextHas (step ((at200 0x1200 (·.setTimers 255 0 0)).setSchedule [.step 1000 0])) (fun t => t.dt == 254) = true := by decide

theorem witness_ParametersNeverChange : ∃ t, step (faulted.setSchedule [.reset 0]) = .next t := ⟨_, rfl⟩

/-- A machine whose time has reached 1. -/
def atTick1 : State := (at200 0x1200).latch 1 0

/-- Each transaction whose time runs backwards, by one tick; and a step at the same tick, which does not. -/
theorem witness_OnlyBackwardTimeStops :
    TimeRunsBackwards (atTick1.setSchedule [.step 0 0]) ∧ TimeRunsBackwards (atTick1.setSchedule [.construct 0]) ∧
    TimeRunsBackwards (atTick1.setSchedule [.reset 0]) ∧ TimeRunsBackwards (atTick1.setSchedule [.loadProgram [] 0]) ∧
    ¬ TimeRunsBackwards (atTick1.setSchedule [.step 1 0]) := by
  refine ⟨⟨0, by decide, .inr ⟨0, [], rfl⟩⟩, ⟨0, by decide, .inl ⟨[], .inl rfl⟩⟩, ⟨0, by decide, .inl ⟨[], .inr (.inl rfl)⟩⟩,
    ⟨0, by decide, .inl ⟨[], .inr (.inr ⟨[], by decide, rfl⟩)⟩⟩, ?_⟩
  rintro ⟨now, hn, ⟨rest, h | h | ⟨b, -, h⟩⟩ | ⟨rnd, rest, h⟩⟩ <;> cases h
  exact absurd hn (by decide)

/-- U15: the stop, at one tick less, and none at the same tick. -/
theorem test_backward_time : step (atTick1.setSchedule [.step 0 0]) = .fault .timeRanBackwards ∧
    (∃ t, step (atTick1.setSchedule [.step 1 0]) = .next t) := ⟨rfl, _, rfl⟩

theorem witness_SoundTimerAndOutputsAreNeverRead : ∃ t, step (at200 0xF218) = .next t := ⟨_, rfl⟩

end Sys2Proof.Tests
end

section
/-! The host's read of the screen (10_state.md R48): what the snapshot lists, and what the transaction changes. -/

namespace Sys2Proof.Machine

/-- The snapshot is the screen's rows one after the other. -/
theorem Screen.snapshot_eq_toList_flatten (sc : Screen) : sc.snapshot = (Vector.flatten sc).toList := by
  simp [Screen.snapshot, Vector.flatten, List.flatMap, ← Vector.toList_toArray, Array.toList_flatten, Function.comp_def]

/-- One bit for each of the 32 rows' 64 pixels. -/
@[simp] theorem Screen.snapshot_length (sc : Screen) : sc.snapshot.length = 2048 := by
  rw [Screen.snapshot_eq_toList_flatten, Vector.length_toList]; rfl

/-- Row-major order: pixel (x, y) is entry 64·y + x of the snapshot. -/
theorem Screen.snapshot_getD (sc : Screen) {x y : Nat} (hx : x < 64) (hy : y < 32) :
    sc.snapshot.getD (64 * y + x) false = sc.pixel x y := by
  have hi : 64 * y + x < Config.rows * Config.columns := by simp only [Config.rows, Config.columns]; omega
  have hrow : (64 * y + x) / Config.columns = y % Config.rows := by simp only [Config.rows, Config.columns]; omega
  have hcol : (64 * y + x) % Config.columns = x % Config.columns := by simp only [Config.columns]; omega
  rw [Screen.snapshot_eq_toList_flatten, List.getD_eq_getElem _ _ (by simpa using hi), Vector.getElem_toList,
    Vector.getElem_flatten hi]
  simp only [Screen.pixel, hrow, hcol]

/-- A scheduled `get_screen` answers the snapshot and does nothing else. -/
theorem step_getScreen {s : State} {rest : List Transaction} (h : s.schedule = .getScreen :: rest) :
    step s = .next ((s.setSchedule rest).emit (.screen s.screen.snapshot)) :=
  step_scheduled h

/-- Settles O51: the answer is the snapshot, and the step is only its emission. -/
theorem screenReadIsRowMajorAndChangesNothing : Obligations.ScreenReadIsRowMajorAndChangesNothing := by
  intro s rest h
  exact ⟨s.screen.snapshot, step_getScreen h, s.screen.snapshot_length, fun _ _ => s.screen.snapshot_getD⟩

end Sys2Proof.Machine
end

section
/-! One-byte writes to memory (20_memory.md R58): what every read gives afterwards, and what the write leaves unchanged. -/

namespace Sys2Proof.Machine

/-- Read after a write of one byte inside memory, through the model's own read and write. -/
theorem State.readByte_writeBytes_singleton (s : State) {a : Nat} (ha : a < Config.memorySize) (v : Byte) (b : Nat) :
    (s.writeBytes a [v]).readByte b = if b = a then v else s.readByte b :=
  Memory.read_write a v s.mem b ha

/-- The frame of a write, of however many bytes and wherever it falls: only the memory can differ. -/
theorem State.writeBytes_eq_with_mem (s : State) (a : Nat) (bytes : List Byte) :
    s.writeBytes a bytes = { s with mem := (s.writeBytes a bytes).mem } :=
  rfl

/-- Settles O30: the read after the write, and the write's frame. -/
theorem writeChangesOnlyTheByteWritten : Obligations.WriteChangesOnlyTheByteWritten := by
  intro s a v ha
  have hsize : a < Config.memorySize := Nat.lt_succ_of_le ha
  exact ⟨s.readByte_writeBytes_singleton hsize v, s.writeBytes_eq_with_mem a [v]⟩

end Sys2Proof.Machine
end

section
/-! Skips (42_skips.md): what an instruction that only skips does, and the words of a family that the first nibble alone
selects (30_encoding.md R84). -/

namespace Sys2Proof.Machine

/-- A word that matches a pattern under the mask 0xF000 is of the pattern's family. -/
theorem fieldF_of_and_familyMask {op pattern : Word} (h : op &&& 0xF000 = pattern) : fieldF op = fieldF pattern := by
  obtain ⟨hf, -, -, -⟩ := (and_mask_eq_iff op 0xF000 pattern).1 h
  have hmask : fieldF 0xF000 = BitVec.allOnes 4 := by decide
  rwa [hmask, BitVec.and_allOnes] at hf

/-- A family without a sub-dispatch is encoded by its first nibble alone. -/
theorem encodedBy_of_fieldF {pattern : Word} {build : Word → Instr}
    (h : ∀ op, fieldF op = fieldF pattern → decode op = .ok (build op)) : EncodedBy 0xF000 pattern build :=
  fun op hop => h op (fieldF_of_and_familyMask hop)

/-- Family 3 is SE with an immediate. -/
theorem decode_of_fieldF_3 (op : Word) (h : fieldF op = 0x3) : decode op = .ok (.seImm (fieldX op) (fieldNN op)) := by
  rw [decode, h]; rfl

/-- Family 4 is SNE with an immediate. -/
theorem decode_of_fieldF_4 (op : Word) (h : fieldF op = 0x4) : decode op = .ok (.sneImm (fieldX op) (fieldNN op)) := by
  rw [decode, h]; rfl

/-- An instruction that only skips when `p` holds ends 4 or 2 further on, with an empty footprint (42_skips.md R150). -/
theorem completes_of_skipIf {i : Instr} {s : State} {c : Bool} {p : Prop} [Decidable p]
    (hexec : exec i s = .next (s.skipIf c).advance) (hc : c = true ↔ p) :
    Completes i s (if p then s.pc + 4 else s.pc + 2) {} (fun _ => True) := by
  have hpc : (s.skipIf c).advance.pc = if p then s.pc + 4 else s.pc + 2 := by
    rw [skipIf_advance_pc]; exact if_congr hc rfl rfl
  exact ⟨_, hexec, hpc, Frame.of_skip s c, trivial⟩

/-- SE with an immediate skips if the register equals it (42_skips.md R151). -/
theorem exec_seImm (x : RegIdx) (nn : Byte) (s : State) :
    exec (.seImm x nn) s = .next (s.skipIf (s.v x == nn)).advance := rfl

/-- SNE with an immediate skips if the register differs from it (42_skips.md R152). -/
theorem exec_sneImm (x : RegIdx) (nn : Byte) (s : State) :
    exec (.sneImm x nn) s = .next (s.skipIf (s.v x != nn)).advance := rfl

/-- Settles O22: each family is its first nibble, and each instruction is one skip on the comparison it names. -/
theorem skipsOnImmediate : Obligations.SkipsOnImmediate :=
  ⟨encodedBy_of_fieldF decode_of_fieldF_3, encodedBy_of_fieldF decode_of_fieldF_4, fun x nn s =>
    ⟨completes_of_skipIf (exec_seImm x nn s) beq_iff_eq, completes_of_skipIf (exec_sneImm x nn s) bne_iff_ne⟩⟩

end Sys2Proof.Machine
end

section
/-! Immediate ALU instructions (43_alu.md R171, R172, R182): an instruction whose one write is a register's, the words of its
family, and a scheduled step that runs a decoded instruction. -/

namespace Sys2Proof.Machine

/-- Family 6 is LD with an immediate. -/
theorem decode_of_fieldF_6 (op : Word) (h : fieldF op = 0x6) : decode op = .ok (.ldImm (fieldX op) (fieldNN op)) := by
  rw [decode, h]; rfl

/-- Family 7 is ADD with an immediate. -/
theorem decode_of_fieldF_7 (op : Word) (h : fieldF op = 0x7) : decode op = .ok (.addImm (fieldX op) (fieldNN op)) := by
  rw [decode, h]; rfl

/-- Family C is RND. -/
theorem decode_of_fieldF_C (op : Word) (h : fieldF op = 0xC) : decode op = .ok (.rnd (fieldX op) (fieldNN op)) := by
  rw [decode, h]; rfl

/-- An instruction that writes one register and advances has that register as its footprint, and what holds of every state
with the byte in it holds of its next state. -/
theorem completes_of_setV {i : Instr} {s : State} {x : RegIdx} {b : Byte} {result : State → Prop}
    (hexec : exec i s = .next (s.setV x b).advance) (hresult : ∀ t : State, t.v x = b → result t) :
    Completes i s (s.pc + 2) { regs := fun j => j == x } result := by
  have hv : (s.setV x b).advance.v x = b := by simp
  exact ⟨_, hexec, rfl, Frame.of_setV s x b, hresult _ hv⟩

/-- LD with an immediate writes the immediate (43_alu.md R171). -/
theorem exec_ldImm (x : RegIdx) (nn : Byte) (s : State) : exec (.ldImm x nn) s = .next (s.setV x nn).advance := rfl

/-- ADD with an immediate writes the wrapped sum (43_alu.md R172). -/
theorem exec_addImm (x : RegIdx) (nn : Byte) (s : State) :
    exec (.addImm x nn) s = .next (s.setV x (s.v x + nn)).advance := rfl

/-- RND writes the masked random input (43_alu.md R182). -/
theorem exec_rnd (x : RegIdx) (nn : Byte) (s : State) : exec (.rnd x nn) s = .next (s.setV x (s.rnd &&& nn)).advance := rfl

/-- A RUNNING machine at a fetchable `pc` executes the decoded instruction (40_execution_cycle.md R117). -/
theorem guardedPart_of_decode {s : State} {i : Instr} (hrun : s.runState = .running) (hpc : s.pc.toNat ≤ 0xFFE)
    (hdec : decode s.opcodeAt = .ok i) : guardedPart s = exec i s := by
  rw [guardedPart_running hrun, executionPart_fetched hpc, hdec]

/-- A scheduled step of a RUNNING machine at a fetchable `pc` is the decoded instruction, run on the state with this step's
own inputs sampled, and then the timer decay (40_execution_cycle.md R111). -/
theorem step_of_decode {s t : State} {now : Nat} {rnd : Byte} {rest : List Transaction} {i : Instr}
    (hsched : StepScheduled s now rnd rest) (hrun : s.runState = .running) (hpc : s.pc.toNat ≤ 0xFFE)
    (hdec : decode s.opcodeAt = .ok i) (hexec : exec i ((s.setSchedule rest).latch now rnd) = .next t) :
    step s = .next (t.timerDecay now) := by
  have hguard := guardedPart_of_decode (s := (s.setSchedule rest).latch now rnd) hrun hpc hdec
  rw [step_of_stepScheduled hsched, stepTransaction_of_guarded (hguard.trans hexec)]

/-- Settles O10: each family is its first nibble, and each instruction is one register write. -/
theorem immediateLoadAndAdd : Obligations.ImmediateLoadAndAdd := by
  refine ⟨encodedBy_of_fieldF decode_of_fieldF_6, encodedBy_of_fieldF decode_of_fieldF_7, fun x nn s => ⟨?ld, ?add⟩⟩
  case ld => exact completes_of_setV (exec_ldImm x nn s) fun _ ht => ht
  case add => exact completes_of_setV (exec_addImm x nn s) fun t ht => by rw [ht, BitVec.toNat_add]

/-- Settles O16: RND is one register write of the masked input, and the input a step latches is its own random byte. -/
theorem randomIsMaskedByImmediate : Obligations.RandomIsMaskedByImmediate := by
  refine ⟨encodedBy_of_fieldF decode_of_fieldF_C, fun x nn s => ⟨completes_of_setV (exec_rnd x nn s) fun _ ht => ht, ?_⟩⟩
  intro now r rest hsched hrun hpc hdec
  refine ⟨_, step_of_decode hsched hrun hpc hdec (exec_rnd x nn _), ?_⟩
  rw [State.timerDecay_v, State.advance_v, State.setV_v, if_pos rfl, State.latch_rnd]

end Sys2Proof.Machine
end

section
/-! Index loads (44_index_memory.md R200, R202): an instruction whose one write is `I`, and the words of a family that the
first and the last nibble select (30_encoding.md R84 to R88). -/

namespace Sys2Proof.Machine

/-- A word that matches a pattern under the mask 0xF00F has the pattern's family and its sub-dispatch nibble. -/
theorem fieldF_fieldN_of_and_subDispatchMask {op pattern : Word} (h : op &&& 0xF00F = pattern) :
    fieldF op = fieldF pattern ∧ fieldN op = fieldN pattern := by
  obtain ⟨hf, -, -, hn⟩ := (and_mask_eq_iff op 0xF00F pattern).1 h
  have hmaskF : fieldF 0xF00F = BitVec.allOnes 4 := by decide
  have hmaskN : fieldN 0xF00F = BitVec.allOnes 4 := by decide
  rw [hmaskF, BitVec.and_allOnes] at hf
  rw [hmaskN, BitVec.and_allOnes] at hn
  exact ⟨hf, hn⟩

/-- A row that fixes F and N alone is encoded by these two nibbles. -/
theorem encodedBy_of_fieldF_fieldN {pattern : Word} {build : Word → Instr}
    (h : ∀ op, fieldF op = fieldF pattern → fieldN op = fieldN pattern → decode op = .ok (build op)) :
    EncodedBy 0xF00F pattern build := by
  intro op hop
  obtain ⟨hf, hn⟩ := fieldF_fieldN_of_and_subDispatchMask hop
  exact h op hf hn

/-- Family A is LD I. -/
theorem decode_of_fieldF_A (op : Word) (h : fieldF op = 0xA) : decode op = .ok (.ldI (fieldNNN op)) := by
  rw [decode, h]; rfl

/-- Family F has its own sub-dispatch. -/
theorem decode_of_fieldF_F (op : Word) (h : fieldF op = 0xF) : decode op = decodeFamilyF op := by
  rw [decode, h]; rfl

/-- In family F, the last nibble 9 is LD F. -/
theorem decodeFamilyF_of_fieldN_9 (op : Word) (h : fieldN op = 0x9) : decodeFamilyF op = .ok (.ldF (fieldX op)) := by
  rw [decodeFamilyF, h]; rfl

/-- The next state of an instruction that writes `I`. -/
theorem Frame.of_setIndex (s : State) (w : Word) : Frame { index := true } s (s.setIndex w).advance := by
  constructor <;> intros <;> simp_all

/-- An instruction that writes `I` and advances has `I` as its footprint, and what holds of every state with the word in `I`
holds of its next state. -/
theorem completes_of_setIndex {i : Instr} {s : State} {w : Word} {result : State → Prop}
    (hexec : exec i s = .next (s.setIndex w).advance) (hresult : ∀ t : State, t.index = w → result t) :
    Completes i s (s.pc + 2) { index := true } result := by
  have hindex : (s.setIndex w).advance.index = w := by simp
  exact ⟨_, hexec, rfl, Frame.of_setIndex s w, hresult _ hindex⟩

/-- LD I writes the zero-extended immediate (44_index_memory.md R200). -/
theorem exec_ldI (nnn : Imm12) (s : State) : exec (.ldI nnn) s = .next (s.setIndex (absolute nnn)).advance := rfl

/-- LD F writes the glyph's address (44_index_memory.md R202). -/
theorem exec_ldF (x : RegIdx) (s : State) : exec (.ldF x) s = .next (s.setIndex (s.glyphAddress x)).advance := rfl

/-- Zero extension keeps the immediate's value (30_encoding.md R83). -/
@[simp] theorem absolute_toNat (nnn : Imm12) : (absolute nnn).toNat = nnn.toNat :=
  BitVec.toNat_setWidth_of_le (by decide)

/-- A glyph's address is the exact product: 255 · 5 fits in 16 bits (44_index_memory.md R202). -/
@[simp] theorem State.glyphAddress_toNat (s : State) (x : RegIdx) : (s.glyphAddress x).toNat = (s.v x).toNat * 5 := by
  have hbyte := (s.v x).isLt
  have hwide : ((s.v x).setWidth 16).toNat = (s.v x).toNat := BitVec.toNat_setWidth_of_le (by decide)
  rw [State.glyphAddress, BitVec.toNat_mul, hwide]
  exact Nat.mod_eq_of_lt (show (s.v x).toNat * 5 < 65536 by omega)

/-- Settles O25: the two encodings by the nibbles that select them, and each instruction as one write of `I`. -/
theorem indexLoadAndGlyphAddress : Obligations.IndexLoadAndGlyphAddress := by
  refine ⟨encodedBy_of_fieldF decode_of_fieldF_A, encodedBy_of_fieldF_fieldN fun op hf hn => ?ldFWord,
    fun nnn s => ?ldI, fun x s => ?ldF⟩
  case ldFWord => exact (decode_of_fieldF_F op hf).trans (decodeFamilyF_of_fieldN_9 op hn)
  case ldI => exact completes_of_setIndex (exec_ldI nnn s) fun t ht => by rw [ht, absolute_toNat]
  case ldF => exact completes_of_setIndex (exec_ldF x s) fun t ht => by rw [ht, State.glyphAddress_toNat]

end Sys2Proof.Machine
end

section
/-! Timer reads and key releases (45_timers_input.md R220, R221, R225): the two encodings that copy DT into a register, and the
host transaction that lifts a key. -/

namespace Sys2Proof.Machine

/-- A word that matches a pattern under the mask 0xF0FF has the pattern's family and both its sub-dispatch nibbles. -/
theorem fieldF_fieldY_fieldN_of_and_subDispatchMask {op pattern : Word} (h : op &&& 0xF0FF = pattern) :
    fieldF op = fieldF pattern ∧ fieldY op = fieldY pattern ∧ fieldN op = fieldN pattern := by
  obtain ⟨hf, -, hy, hn⟩ := (and_mask_eq_iff op 0xF0FF pattern).1 h
  have hmaskF : fieldF 0xF0FF = BitVec.allOnes 4 := by decide
  have hmaskY : fieldY 0xF0FF = BitVec.allOnes 4 := by decide
  have hmaskN : fieldN 0xF0FF = BitVec.allOnes 4 := by decide
  rw [hmaskF, BitVec.and_allOnes] at hf
  rw [hmaskY, BitVec.and_allOnes] at hy
  rw [hmaskN, BitVec.and_allOnes] at hn
  exact ⟨hf, hy, hn⟩

/-- A row that fixes F, Y and N is encoded by these three nibbles. -/
theorem encodedBy_of_fieldF_fieldY_fieldN {pattern : Word} {build : Word → Instr}
    (h : ∀ op, fieldF op = fieldF pattern → fieldY op = fieldY pattern → fieldN op = fieldN pattern →
      decode op = .ok (build op)) : EncodedBy 0xF0FF pattern build := by
  intro op hop
  obtain ⟨hf, hy, hn⟩ := fieldF_fieldY_fieldN_of_and_subDispatchMask hop
  exact h op hf hy hn

/-- In family F, the last nibble 7 is LD Vx, DT. -/
theorem decodeFamilyF_of_fieldN_7 (op : Word) (h : fieldN op = 0x7) : decodeFamilyF op = .ok (.ldDt (fieldX op)) := by
  rw [decodeFamilyF, h]; rfl

/-- In family F, the last nibble 5 has its own sub-dispatch. -/
theorem decodeFamilyF_of_fieldN_5 (op : Word) (h : fieldN op = 0x5) : decodeFamilyF op = decodeFamilyF5 op := by
  rw [decodeFamilyF, h]; rfl

/-- Among the words F??5, the third nibble 1 is LD15 Vx, DT. -/
theorem decodeFamilyF5_of_fieldY_1 (op : Word) (h : fieldY op = 0x1) : decodeFamilyF5 op = .ok (.ld15 (fieldX op)) := by
  rw [decodeFamilyF5, h]; rfl

/-- LD Vx, DT writes DT's value into the register (45_timers_input.md R220). -/
theorem exec_ldDt (x : RegIdx) (s : State) : exec (.ldDt x) s = .next (s.setV x s.dt).advance := rfl

/-- LD15 Vx, DT does the same (45_timers_input.md R221). -/
theorem exec_ld15 (x : RegIdx) (s : State) : exec (.ld15 x) s = .next (s.setV x s.dt).advance := rfl

/-- Both reads of the delay timer are the same register write. -/
theorem exec_of_mem_delayTimerReads {i : Instr} {x : RegIdx} (hi : i ∈ [Instr.ldDt x, Instr.ld15 x]) (s : State) :
    exec i s = .next (s.setV x s.dt).advance := by
  obtain rfl | rfl := List.mem_pair.1 hi
  · exact exec_ldDt x s
  · exact exec_ld15 x s

/-- Settles O32: the encodings by the nibbles that select them, and each instruction as one register write of DT:
the step's sampling before it leaves DT, and the step's decay after it leaves the register. -/
theorem delayTimerIsRead : Obligations.DelayTimerIsRead := by
  refine ⟨encodedBy_of_fieldF_fieldN fun op hf hn => ?ldDtWord, encodedBy_of_fieldF_fieldY_fieldN fun op hf hy hn => ?ld15Word,
    fun x s i hi => ⟨completes_of_setV (exec_of_mem_delayTimerReads hi s) fun _ ht => ht, ?step⟩⟩
  case ldDtWord => exact (decode_of_fieldF_F op hf).trans (decodeFamilyF_of_fieldN_7 op hn)
  case ld15Word =>
    calc decode op = decodeFamilyF op := decode_of_fieldF_F op hf
      _ = decodeFamilyF5 op := decodeFamilyF_of_fieldN_5 op hn
      _ = .ok (.ld15 (fieldX op)) := decodeFamilyF5_of_fieldY_1 op hy
  case step =>
    intro now rnd rest hsched hrun hpc hdec
    refine ⟨_, step_of_decode hsched hrun hpc hdec (exec_of_mem_delayTimerReads hi _), ?_⟩
    rw [State.timerDecay_v, State.advance_v, State.setV_v, if_pos rfl, State.latch_dt, State.setSchedule_dt]

/-- A scheduled `release_key` lifts its key and does nothing else. -/
theorem step_releaseKey {s : State} {k : Nibble} {rest : List Transaction} (h : s.schedule = .releaseKey k :: rest) :
    step s = .next ((s.setSchedule rest).setKey k false) :=
  step_scheduled h

/-- The frame of a key's new state: only the keys can differ. -/
theorem State.setKey_eq_with_keys (s : State) (k : Nibble) (b : Bool) :
    s.setKey k b = { s with keys := (s.setKey k b).keys } :=
  rfl

/-- Settles O36: the step is one key's new state, after the transaction is taken off the schedule. -/
theorem releaseOnlyLiftsTheKey : Obligations.ReleaseOnlyLiftsTheKey := by
  intro s k rest h
  exact ⟨_, step_releaseKey h, (s.setSchedule rest).setKey_key k false, (s.setSchedule rest).setKey_eq_with_keys k false⟩

end Sys2Proof.Machine
end

section
/-! Clearing the screen (46_display.md R240, R241): the words of CLS, and an instruction whose one write is the screen. -/

namespace Sys2Proof.Machine

/-- Family 0 has its own sub-dispatch (30_encoding.md R85). -/
theorem decode_of_fieldF_0 (op : Word) (h : fieldF op = 0x0) : decode op = decodeFamily0 op := by
  rw [decode, h]; rfl

/-- In family 0, the last nibble 0 is CLS. -/
theorem decodeFamily0_of_fieldN_0 (op : Word) (h : fieldN op = 0x0) : decodeFamily0 op = .ok .cls := by
  rw [decodeFamily0, h]; rfl

/-- The next state of an instruction that writes the screen. -/
theorem Frame.of_setScreen (s : State) (sc : Screen) : Frame { screen := true } s (s.setScreen sc).advance := by
  constructor <;> intros <;> simp_all

/-- An instruction that writes the screen and advances has the screen as its footprint, and what holds of every state with
that screen holds of its next state. -/
theorem completes_of_setScreen {i : Instr} {s : State} {sc : Screen} {result : State → Prop}
    (hexec : exec i s = .next (s.setScreen sc).advance) (hresult : ∀ t : State, t.screen = sc → result t) :
    Completes i s (s.pc + 2) { screen := true } result :=
  ⟨_, hexec, rfl, Frame.of_setScreen s sc, hresult _ rfl⟩

/-- CLS writes the blank screen (46_display.md R241). -/
theorem exec_cls (s : State) : exec .cls s = .next (s.setScreen Screen.blank).advance := rfl

/-- Settles O39: the encoding by the nibbles F and N that select it, and the instruction as one write of the blank screen. -/
theorem clearTurnsEveryPixelOff : Obligations.ClearTurnsEveryPixelOff := by
  refine ⟨encodedBy_of_fieldF_fieldN fun op hf hn => ?word, fun s => ?exec⟩
  case word => exact (decode_of_fieldF_0 op hf).trans (decodeFamily0_of_fieldN_0 op hn)
  case exec => exact completes_of_setScreen (exec_cls s) fun t ht x y => by rw [ht, Screen.blank_pixel]

end Sys2Proof.Machine
end

section
/-! The two forms of the decoder (30_encoding.md R84 to R93): dispatch by nibbles, and the opcode table by mask and match.
Every word takes one branch of the dispatch, and that branch is a row of the table or an unknown opcode (R90). -/

namespace Sys2Proof

open Laws.EncodesInItsRow (row_mem)

/-- The nibbles of an unknown opcode, as 30_encoding.md R90 lists them. -/
abbrev UnknownNibbles (f y n : Nibble) : Prop :=
  (f = 0x8 ∧ n ∈ [0x8, 0x9, 0xA, 0xB, 0xC, 0xD, 0xF]) ∨
  (f = 0xE ∧ n ∈ [0x0, 0x2, 0x3, 0x4, 0x5, 0x6, 0x7, 0x8, 0x9, 0xA, 0xB, 0xC, 0xD, 0xF]) ∨
  (f = 0xF ∧ n ∈ [0x0, 0x1, 0x2, 0x4, 0x6, 0xB, 0xC, 0xD, 0xF]) ∨
  (f = 0xF ∧ n = 0x5 ∧ y ∈ [0x0, 0x2, 0x3, 0x4, 0x7, 0x8, 0x9, 0xA, 0xB, 0xC, 0xD, 0xE, 0xF])

/-- The result `d` of decoding `op` is the instruction of a row that `op` selects. -/
def ReadByRow (op : Word) (d : Except Reject Instr) : Prop :=
  ∃ r ∈ opcodeRows, r.selects op = true ∧ d = .ok (r.build op)

/-- The result `d` of decoding `op` is the unknown opcode, and `op` has the nibbles of one. -/
def ReadAsUnknown (op : Word) (d : Except Reject Instr) : Prop :=
  UnknownNibbles (fieldF op) (fieldY op) (fieldN op) ∧ d = .error (.unknownOpcode op)

/-! ### Which words a row reads -/

/-- Row selection as two propositions: the masked word, and row 2's constraint. -/
theorem OpcodeRow.selects_iff (r : OpcodeRow) (op : Word) :
    r.selects op = true ↔ op &&& r.mask = r.pattern ∧ (r.nNonzero = false ∨ fieldN op ≠ 0) := by
  simp [OpcodeRow.selects]

/-- Every row looks at the whole of F. -/
theorem opcodeRows_fieldF_mask : ∀ r ∈ opcodeRows, fieldF r.mask = BitVec.allOnes 4 := by decide

/-- A row's pattern has no bit outside its mask. -/
theorem opcodeRows_pattern_and_mask : ∀ r ∈ opcodeRows, r.pattern &&& r.mask = r.pattern := by decide

/-- A field fits a pattern that lies inside the mask if the mask ignores the field or the field is the pattern's. -/
theorem and_mask_eq_of_ignored_or_eq {a m p : Nibble} (hp : p &&& m = p) (h : m = 0#4 ∨ a = p) : a &&& m = p := by
  obtain rfl | rfl := h
  · rw [BitVec.and_zero] at hp ⊢; exact hp
  · exact hp

/-- A row reads every word that has its F, its N and Y where it looks at them, and meets its constraint. -/
theorem readByRow_of_fields {op : Word} {r : OpcodeRow} (hr : r ∈ opcodeRows) (hf : fieldF op = fieldF r.pattern)
    (hy : fieldY r.mask = 0#4 ∨ fieldY op = fieldY r.pattern) (hn : fieldN r.mask = 0#4 ∨ fieldN op = fieldN r.pattern)
    (hz : r.nNonzero = false ∨ fieldN op ≠ 0) : ReadByRow op (.ok (r.build op)) := by
  obtain ⟨hpF, hpX, hpY, hpN⟩ := (and_mask_eq_iff ..).1 (opcodeRows_pattern_and_mask r hr)
  have hfits : op &&& r.mask = r.pattern := (and_mask_eq_iff ..).2
    ⟨and_mask_eq_of_ignored_or_eq hpF (.inr hf), and_mask_eq_of_ignored_or_eq hpX (.inl (opcodeRows_ignore_x hr).1),
      and_mask_eq_of_ignored_or_eq hpY hy, and_mask_eq_of_ignored_or_eq hpN hn⟩
  exact ⟨r, hr, (r.selects_iff op).2 ⟨hfits, hz⟩, rfl⟩

/-- A row that looks at F alone. -/
theorem readByRow_of_fieldF {op : Word} {r : OpcodeRow} (hr : r ∈ opcodeRows) (hm : r.mask = 0xF000)
    (hz : r.nNonzero = false) (hf : fieldF op = fieldF r.pattern) : ReadByRow op (.ok (r.build op)) :=
  readByRow_of_fields hr hf (.inl (by rw [hm]; rfl)) (.inl (by rw [hm]; rfl)) (.inl hz)

/-- A row that looks at F and N. -/
theorem readByRow_of_fieldF_fieldN {op : Word} {r : OpcodeRow} (hr : r ∈ opcodeRows) (hm : r.mask = 0xF00F)
    (hz : r.nNonzero = false) (hf : fieldF op = fieldF r.pattern) (hn : fieldN op = fieldN r.pattern) :
    ReadByRow op (.ok (r.build op)) :=
  readByRow_of_fields hr hf (.inl (by rw [hm]; rfl)) (.inr hn) (.inl hz)

/-! ### The branches of the dispatch -/

/-- Family 0 (30_encoding.md R85): rows 1 and 2. -/
theorem decodeFamily0_read {op : Word} (hf : fieldF op = 0x0) : ReadByRow op (decodeFamily0 op) := by
  unfold decodeFamily0
  split
  next hn => exact readByRow_of_fieldF_fieldN (row_mem 0) rfl rfl hf hn
  next hn => exact readByRow_of_fields (row_mem 1) hf (.inl rfl) (.inl rfl) (.inr hn)

/-- Family 8 (30_encoding.md R86): rows 10 to 18. -/
theorem decodeFamily8_read {op : Word} (hf : fieldF op = 0x8) :
    ReadByRow op (decodeFamily8 op) ∨ ReadAsUnknown op (decodeFamily8 op) := by
  unfold decodeFamily8
  split
  next hn => exact .inl (readByRow_of_fieldF_fieldN (row_mem 9) rfl rfl hf hn)
  next hn => exact .inl (readByRow_of_fieldF_fieldN (row_mem 10) rfl rfl hf hn)
  next hn => exact .inl (readByRow_of_fieldF_fieldN (row_mem 11) rfl rfl hf hn)
  next hn => exact .inl (readByRow_of_fieldF_fieldN (row_mem 12) rfl rfl hf hn)
  next hn => exact .inl (readByRow_of_fieldF_fieldN (row_mem 13) rfl rfl hf hn)
  next hn => exact .inl (readByRow_of_fieldF_fieldN (row_mem 14) rfl rfl hf hn)
  next hn => exact .inl (readByRow_of_fieldF_fieldN (row_mem 15) rfl rfl hf hn)
  next hn => exact .inl (readByRow_of_fieldF_fieldN (row_mem 16) rfl rfl hf hn)
  next hn => exact .inl (readByRow_of_fieldF_fieldN (row_mem 17) rfl rfl hf hn)
  next =>
    refine .inr ⟨.inl ⟨hf, ?_⟩, rfl⟩
    generalize fieldN op = n at *
    decide +revert

/-- Family E (30_encoding.md R87): rows 24 and 25. -/
theorem decodeFamilyE_read {op : Word} (hf : fieldF op = 0xE) :
    ReadByRow op (decodeFamilyE op) ∨ ReadAsUnknown op (decodeFamilyE op) := by
  unfold decodeFamilyE
  split
  next hn => exact .inl (readByRow_of_fieldF_fieldN (row_mem 23) rfl rfl hf hn)
  next hn => exact .inl (readByRow_of_fieldF_fieldN (row_mem 24) rfl rfl hf hn)
  next =>
    refine .inr ⟨.inr (.inl ⟨hf, ?_⟩), rfl⟩
    generalize fieldN op = n at *
    decide +revert

/-- The words F??5 (30_encoding.md R88): rows 27 to 29. -/
theorem decodeFamilyF5_read {op : Word} (hf : fieldF op = 0xF) (hn : fieldN op = 0x5) :
    ReadByRow op (decodeFamilyF5 op) ∨ ReadAsUnknown op (decodeFamilyF5 op) := by
  unfold decodeFamilyF5
  split
  next hy => exact .inl (readByRow_of_fields (row_mem 26) hf (.inr hy) (.inr hn) (.inl rfl))
  next hy => exact .inl (readByRow_of_fields (row_mem 27) hf (.inr hy) (.inr hn) (.inl rfl))
  next hy => exact .inl (readByRow_of_fields (row_mem 28) hf (.inr hy) (.inr hn) (.inl rfl))
  next =>
    refine .inr ⟨.inr (.inr (.inr ⟨hf, hn, ?_⟩)), rfl⟩
    generalize fieldY op = y at *
    decide +revert

/-- Family F (30_encoding.md R88): rows 26 to 34. -/
theorem decodeFamilyF_read {op : Word} (hf : fieldF op = 0xF) :
    ReadByRow op (decodeFamilyF op) ∨ ReadAsUnknown op (decodeFamilyF op) := by
  unfold decodeFamilyF
  split
  next hn => exact .inl (readByRow_of_fieldF_fieldN (row_mem 25) rfl rfl hf hn)
  next hn => exact decodeFamilyF5_read hf hn
  next hn => exact .inl (readByRow_of_fieldF_fieldN (row_mem 29) rfl rfl hf hn)
  next hn => exact .inl (readByRow_of_fieldF_fieldN (row_mem 30) rfl rfl hf hn)
  next hn => exact .inl (readByRow_of_fieldF_fieldN (row_mem 31) rfl rfl hf hn)
  next hn => exact .inl (readByRow_of_fieldF_fieldN (row_mem 32) rfl rfl hf hn)
  next hn => exact .inl (readByRow_of_fieldF_fieldN (row_mem 33) rfl rfl hf hn)
  next =>
    refine .inr ⟨.inr (.inr (.inl ⟨hf, ?_⟩)), rfl⟩
    generalize fieldN op = n at *
    decide +revert

/-- Every word is read by a row it selects or has the nibbles of an unknown opcode and is read as that. -/
theorem decode_read (op : Word) : ReadByRow op (decode op) ∨ ReadAsUnknown op (decode op) := by
  unfold decode
  split
  next hf => exact .inl (decodeFamily0_read hf)
  next hf => exact .inl (readByRow_of_fieldF (row_mem 2) rfl rfl hf)
  next hf => exact .inl (readByRow_of_fieldF (row_mem 3) rfl rfl hf)
  next hf => exact .inl (readByRow_of_fieldF (row_mem 4) rfl rfl hf)
  next hf => exact .inl (readByRow_of_fieldF (row_mem 5) rfl rfl hf)
  next hf => exact .inl (readByRow_of_fieldF (row_mem 6) rfl rfl hf)
  next hf => exact .inl (readByRow_of_fieldF (row_mem 7) rfl rfl hf)
  next hf => exact .inl (readByRow_of_fieldF (row_mem 8) rfl rfl hf)
  next hf => exact decodeFamily8_read hf
  next hf => exact .inl (readByRow_of_fieldF (row_mem 18) rfl rfl hf)
  next hf => exact .inl (readByRow_of_fieldF (row_mem 19) rfl rfl hf)
  next hf => exact .inl (readByRow_of_fieldF (row_mem 20) rfl rfl hf)
  next hf => exact .inl (readByRow_of_fieldF (row_mem 21) rfl rfl hf)
  next hf => exact .inl (readByRow_of_fieldF (row_mem 22) rfl rfl hf)
  next hf => exact decodeFamilyE_read hf
  next =>
    refine decodeFamilyF_read ?_
    generalize fieldF op = f at *
    decide +revert

/-! ### No word selects two rows, and an unknown opcode selects none -/

/-- No word selects both rows: they differ in a bit both look at, or one fixes N = 0, which the other excludes. -/
def OpcodeRow.excludes (r r' : OpcodeRow) : Bool :=
  r.pattern &&& r'.mask != r'.pattern &&& r.mask ||
    (fieldN r.mask == BitVec.allOnes 4 && fieldN r.pattern == 0 && r'.nNonzero)

/-- A word that selects a row does not select one that it excludes. -/
theorem OpcodeRow.not_selects_of_excludes {r r' : OpcodeRow} (h : r.excludes r' = true) {op : Word}
    (hr : r.selects op = true) : r'.selects op = false := by
  rw [← Bool.not_eq_true]
  intro hr'
  obtain ⟨hfits, -⟩ := (r.selects_iff op).1 hr
  obtain ⟨hfits', hz'⟩ := (r'.selects_iff op).1 hr'
  rw [OpcodeRow.excludes, Bool.or_eq_true, bne_iff_ne, Bool.and_eq_true, Bool.and_eq_true, beq_iff_eq, beq_iff_eq] at h
  obtain hbit | ⟨⟨hmask, hzero⟩, hnonzero⟩ := h
  · exact hbit (by rw [← hfits, ← hfits', BitVec.and_assoc, BitVec.and_assoc, BitVec.and_comm r.mask])
  · obtain ⟨-, -, -, hn⟩ := (and_mask_eq_iff ..).1 hfits
    rw [hmask, BitVec.and_allOnes, hzero] at hn
    simp [hnonzero, hn] at hz'

/-- Each row excludes every later one (30_encoding.md R92). -/
theorem opcodeRows_pairwise_excludes : opcodeRows.Pairwise fun r r' => r.excludes r' = true := by decide

/-- Of two rows at different places of the table, a word does not select both. -/
theorem opcodeRows_pairwise_disjoint (op : Word) :
    opcodeRows.Pairwise fun r r' => r.selects op = true → r'.selects op = true → False :=
  opcodeRows_pairwise_excludes.imp fun h hr hr' => by
    rw [OpcodeRow.not_selects_of_excludes h hr] at hr'; cases hr'

/-- The row a word selects is the only one. -/
theorem opcodeRow_unique {op : Word} {r r' : OpcodeRow} (hr : r ∈ opcodeRows) (hr' : r' ∈ opcodeRows)
    (h : r.selects op = true) (h' : r'.selects op = true) : r = r' := by
  by_contra hne
  have hsymm : Std.Symm fun r r' : OpcodeRow => r.selects op = true → r'.selects op = true → False :=
    ⟨fun _ _ hxy hy hx => hxy hx hy⟩
  exact (opcodeRows_pairwise_disjoint op).forall hr hr' hne h h'

/-- The rows that read an unknown opcode's family look at N as well (30_encoding.md R86 to R88). -/
theorem opcodeRows_fieldN_mask : ∀ r ∈ opcodeRows,
    fieldN r.mask = BitVec.allOnes 4 ∨ fieldF r.pattern ∉ [0x8#4, 0xE#4, 0xF#4] := by decide

/-- No row stands for the nibbles of an unknown opcode. -/
theorem opcodeRows_not_unknown : ∀ r ∈ opcodeRows, ∀ y : Nibble, y &&& fieldY r.mask = fieldY r.pattern →
    ¬ UnknownNibbles (fieldF r.pattern) y (fieldN r.pattern) := by decide

/-- A word with the nibbles of an unknown opcode selects no row. -/
theorem not_selects_of_unknownNibbles {op : Word} (h : UnknownNibbles (fieldF op) (fieldY op) (fieldN op)) :
    ∀ r ∈ opcodeRows, r.selects op = false := by
  intro r hr
  rw [← Bool.not_eq_true]
  intro hsel
  obtain ⟨hfits, -⟩ := (r.selects_iff op).1 hsel
  obtain ⟨hf, -, hy, hn⟩ := (and_mask_eq_iff ..).1 hfits
  rw [opcodeRows_fieldF_mask r hr, BitVec.and_allOnes] at hf
  rw [hf] at h
  obtain hmask | hfamily := opcodeRows_fieldN_mask r hr
  · rw [hmask, BitVec.and_allOnes] at hn
    rw [hn] at h
    exact opcodeRows_not_unknown r hr _ hy h
  · apply hfamily
    obtain ⟨hf8, -⟩ | ⟨hfE, -⟩ | ⟨hfF, -⟩ | ⟨hfF, -⟩ := h <;> simp [*]

/-- A word that selects a row decodes to the instruction the row builds. -/
theorem decode_of_selects {op : Word} {r : OpcodeRow} (hr : r ∈ opcodeRows) (h : r.selects op = true) :
    decode op = .ok (r.build op) := by
  obtain ⟨r', hr', h', hd⟩ | ⟨hunknown, -⟩ := decode_read op
  · rw [hd, opcodeRow_unique hr hr' h h']
  · rw [not_selects_of_unknownNibbles hunknown r hr] at h; cases h

/-- The encoding of a row without a constraint: every word with the row's fixed bits. -/
theorem encodedBy_of_row {r : OpcodeRow} (hr : r ∈ opcodeRows) (hz : r.nNonzero = false) :
    Machine.EncodedBy r.mask r.pattern r.build :=
  fun op hop => decode_of_selects hr ((r.selects_iff op).2 ⟨hop, .inl hz⟩)

/-- A list without two members is empty or a singleton. -/
theorem length_le_one_of_pairwise_false {α : Type} : ∀ {l : List α}, l.Pairwise (fun _ _ => False) → l.length ≤ 1
  | [], _ => Nat.zero_le 1
  | [_], _ => le_refl 1
  | _ :: _ :: _, h => (List.rel_of_pairwise_cons h List.mem_cons_self).elim

/-! ### The statements -/

/-- Settles O4: a list of rows no two of which a word selects holds at most one that it does. -/
theorem opcodeRowsAreDisjoint : Obligations.OpcodeRowsAreDisjoint := by
  intro op
  exact length_le_one_of_pairwise_false (List.pairwise_filter.2 (opcodeRows_pairwise_disjoint op))

/-- Settles O3: the branch a word takes is a row it selects, the only one; or none, and then it has an unknown opcode's
nibbles. -/
theorem decoderAgreesWithOpcodeTable : Obligations.DecoderAgreesWithOpcodeTable := by
  intro op
  refine ⟨fun i => ⟨fun hd => ?ok, ?row⟩, fun hd r hr => ?unknown, fun hnone => ?noRow⟩
  case ok =>
    obtain ⟨r, hr, hsel, hok⟩ | ⟨-, herr⟩ := decode_read op
    · exact ⟨r, hr, hsel, Except.ok.inj (hok.symm.trans hd)⟩
    · rw [herr] at hd; cases hd
  case row =>
    rintro ⟨r, hr, hsel, rfl⟩
    exact decode_of_selects hr hsel
  case unknown =>
    rw [← Bool.not_eq_true]
    intro hsel
    rw [decode_of_selects hr hsel] at hd; cases hd
  case noRow =>
    obtain ⟨r, hr, hsel, -⟩ | ⟨-, herr⟩ := decode_read op
    · rw [hnone r hr] at hsel; cases hsel
    · exact herr

/-- Settles O5: a word is read as an unknown opcode when it has the nibbles of one, and then no row reads it. -/
theorem unknownOpcodesAreExactlyThese : Obligations.UnknownOpcodesAreExactlyThese := by
  intro op
  refine ⟨fun hd => ?_, fun hunknown => ?_⟩
  · obtain ⟨r, -, -, hok⟩ | ⟨hunknown, -⟩ := decode_read op
    · rw [hok] at hd; cases hd
    · exact hunknown
  · exact (decoderAgreesWithOpcodeTable op).2.2 (not_selects_of_unknownNibbles hunknown)

/-- The word the encoder writes for a well-formed instruction selects a row that builds the instruction. -/
theorem encodesInItsRow (i : Instr) : Laws.EncodesInItsRow.Statement i := by
  cases i with
  | cls => exact Laws.EncodesInItsRow.cls
  | ret n => exact Laws.EncodesInItsRow.ret n
  | jp nnn => exact Laws.EncodesInItsRow.jp nnn
  | call nnn => exact Laws.EncodesInItsRow.call nnn
  | seImm x nn => exact Laws.EncodesInItsRow.seImm x nn
  | sneImm x nn => exact Laws.EncodesInItsRow.sneImm x nn
  | seReg x y => exact Laws.EncodesInItsRow.seReg x y
  | ldImm x nn => exact Laws.EncodesInItsRow.ldImm x nn
  | addImm x nn => exact Laws.EncodesInItsRow.addImm x nn
  | ldReg x y => exact Laws.EncodesInItsRow.ldReg x y
  | orReg x y => exact Laws.EncodesInItsRow.orReg x y
  | andReg x y => exact Laws.EncodesInItsRow.andReg x y
  | xorReg x y => exact Laws.EncodesInItsRow.xorReg x y
  | addReg x y => exact Laws.EncodesInItsRow.addReg x y
  | subReg x y => exact Laws.EncodesInItsRow.subReg x y
  | shr x => exact Laws.EncodesInItsRow.shr x
  | subnReg x y => exact Laws.EncodesInItsRow.subnReg x y
  | shre x => exact Laws.EncodesInItsRow.shre x
  | sneReg x y => exact Laws.EncodesInItsRow.sneReg x y
  | ldI nnn => exact Laws.EncodesInItsRow.ldI nnn
  | jpV0 nnn => exact Laws.EncodesInItsRow.jpV0 nnn
  | rnd x nn => exact Laws.EncodesInItsRow.rnd x nn
  | drw x y n => exact Laws.EncodesInItsRow.drw x y n
  | skp x => exact Laws.EncodesInItsRow.skp x
  | sknp x => exact Laws.EncodesInItsRow.sknp x
  | ldB x => exact Laws.EncodesInItsRow.ldB x
  | ld15 x => exact Laws.EncodesInItsRow.ld15 x
  | storeRegs x => exact Laws.EncodesInItsRow.storeRegs x
  | loadRegs x => exact Laws.EncodesInItsRow.loadRegs x
  | ldDt x => exact Laws.EncodesInItsRow.ldDt x
  | ldSt x => exact Laws.EncodesInItsRow.ldSt x
  | ldF x => exact Laws.EncodesInItsRow.ldF x
  | ldK x => exact Laws.EncodesInItsRow.ldK x
  | addI x => exact Laws.EncodesInItsRow.addI x

/-- Settles O2: the encoder writes a word of the instruction's row, and the decoder reads that word by that row. -/
theorem decodeOfEncodeIsTheInstruction : Obligations.DecodeOfEncodeIsTheInstruction := by
  intro i hwf
  obtain ⟨r, hr, hsel, hbuild⟩ := encodesInItsRow i hwf
  rw [decode_of_selects hr hsel, hbuild]

/-- Settles O1, by running the decoder on the eleven words. -/
theorem sampleWordsDecode : Obligations.SampleWordsDecode := by
  unfold Obligations.SampleWordsDecode
  decide

end Sys2Proof
end

section
/-! Register-to-register instructions (43_alu.md R173 to R181): one register write, or a result and then VF, with the flag as a
fact about the operands' values. -/

namespace Sys2Proof.Machine

/-- LD Vx, Vy copies the register (43_alu.md R173). -/
theorem exec_ldReg (x y : RegIdx) (s : State) : exec (.ldReg x y) s = .next (s.setV x (s.v y)).advance := rfl

/-- OR writes the disjunction (43_alu.md R174). -/
theorem exec_orReg (x y : RegIdx) (s : State) : exec (.orReg x y) s = .next (s.setV x (s.v x ||| s.v y)).advance := rfl

/-- AND writes the conjunction (43_alu.md R175). -/
theorem exec_andReg (x y : RegIdx) (s : State) : exec (.andReg x y) s = .next (s.setV x (s.v x &&& s.v y)).advance := rfl

/-- XOR writes the exclusive disjunction (43_alu.md R176). -/
theorem exec_xorReg (x y : RegIdx) (s : State) : exec (.xorReg x y) s = .next (s.setV x (s.v x ^^^ s.v y)).advance := rfl

/-- ADD Vx, Vy writes the wrapped sum and the carry (43_alu.md R177). -/
theorem exec_addReg (x y : RegIdx) (s : State) : exec (.addReg x y) s =
    .next (s.setResultAndFlag x (s.v x + s.v y) (flagByte (carryFlag (s.v x) (s.v y)))).advance := rfl

/-- SUB writes the wrapped difference and its flag (43_alu.md R178). -/
theorem exec_subReg (x y : RegIdx) (s : State) : exec (.subReg x y) s =
    .next (s.setResultAndFlag x (s.v x - s.v y) (flagByte (subFlag (s.v x) (s.v y)))).advance := rfl

/-- SUBN writes the reversed difference and its flag (43_alu.md R180). -/
theorem exec_subnReg (x y : RegIdx) (s : State) : exec (.subnReg x y) s =
    .next (s.setResultAndFlag x (s.v y - s.v x) (flagByte (subnFlag (s.v x) (s.v y)))).advance := rfl

/-- Both shifts write the halved register and the bit shifted out (43_alu.md R179, R181). -/
theorem exec_of_mem_shifts {i : Instr} {x : RegIdx} (hi : i ∈ [Instr.shr x, Instr.shre x]) (s : State) :
    exec i s = .next (s.setResultAndFlag x (s.v x >>> 1) (shiftedOut (s.v x))).advance := by
  obtain rfl | rfl := List.mem_pair.1 hi <;> rfl

/-- An instruction that writes a result and VF has both registers as its footprint; what holds of every state with the flag in
VF, and with the result in VX unless that is VF, holds of its next state (43_alu.md R170). -/
theorem completes_of_setResultAndFlag {i : Instr} {s : State} {x : RegIdx} {r f : Byte} {result : State → Prop}
    (hexec : exec i s = .next (s.setResultAndFlag x r f).advance)
    (hresult : ∀ t : State, (x ≠ vf → t.v x = r) → t.v vf = f → result t) :
    Completes i s (s.pc + 2) { regs := fun j => j == x || j == vf } result := by
  refine ⟨_, hexec, rfl, Frame.of_resultAndFlag s x r f, hresult _ (fun hx => ?_) ?_⟩
  · rw [State.advance_v, State.setResultAndFlag_v, if_neg hx, if_pos rfl]
  · rw [State.advance_v, State.setResultAndFlag_v, if_pos rfl]

/-- A flag is 1 where its condition holds and 0 elsewhere (00_scope.md R11). -/
theorem flagByte_eq_ite {c : Bool} {p : Prop} [Decidable p] (h : c = true ↔ p) : flagByte c = if p then 1 else 0 :=
  if_congr h rfl rfl

/-- The carry is set when the exact sum does not fit a byte (43_alu.md R177). -/
theorem carryFlag_iff (a b : Byte) : carryFlag a b = true ↔ 256 ≤ a.toNat + b.toNat := by
  have ha := a.isLt
  have hb := b.isLt
  simp only [carryFlag, Bool.or_eq_true, decide_eq_true_eq, BitVec.lt_def, BitVec.toNat_add]
  omega

/-- SUB's flag is set when something is subtracted and it does not borrow (43_alu.md R178; 90_conflicts.md C2). -/
theorem subFlag_iff (a b : Byte) : subFlag a b = true ↔ 0 < b.toNat ∧ b.toNat ≤ a.toNat := by
  have ha := a.isLt
  have hb := b.isLt
  simp only [subFlag, decide_eq_true_eq, BitVec.lt_def, BitVec.toNat_sub]
  omega

/-- SUBN's flag is set when VY is the greater (43_alu.md R180). -/
theorem subnFlag_iff (a b : Byte) : subnFlag a b = true ↔ a.toNat < b.toNat := by
  simp only [subnFlag, decide_eq_true_eq, BitVec.lt_def]

/-- A wrapped difference of bytes as a number. -/
theorem toNat_byte_sub (a b : Byte) : (a - b).toNat = (a.toNat + 256 - b.toNat) % 256 := by
  have hb := b.isLt
  rw [BitVec.toNat_sub]
  omega

/-- The bit shifted out is the remainder of the halving (43_alu.md R179). -/
theorem shiftedOut_toNat (a : Byte) : (shiftedOut a).toNat = a.toNat % 2 := by
  rw [shiftedOut, BitVec.toNat_and]
  exact Nat.and_one_is_mod a.toNat

/-- Settles O11: each instruction is one register write, of a byte with the bits the statement names. -/
theorem copyAndBitwise : Obligations.CopyAndBitwise := by
  refine fun x y s => ⟨?ld, ?or, ?and, ?xor⟩
  case ld => exact completes_of_setV (exec_ldReg x y s) fun _ ht => ht
  case or => exact completes_of_setV (exec_orReg x y s) fun t ht b => by rw [ht, BitVec.getLsbD_or]
  case and => exact completes_of_setV (exec_andReg x y s) fun t ht b => by rw [ht, BitVec.getLsbD_and]
  case xor => exact completes_of_setV (exec_xorReg x y s) fun t ht b => by rw [ht, BitVec.getLsbD_xor]

/-- Settles O12: the sum and the carry as numbers. -/
theorem addReportsCarry : Obligations.AddReportsCarry := fun x y s =>
  completes_of_setResultAndFlag (exec_addReg x y s) fun _ hx hflag =>
    ⟨fun h => by rw [hx h, BitVec.toNat_add], hflag.trans (flagByte_eq_ite (carryFlag_iff ..))⟩

/-- Settles O13: the difference and its flag as numbers. -/
theorem subtractReportsResultBelowOriginal : Obligations.SubtractReportsResultBelowOriginal := fun x y s =>
  completes_of_setResultAndFlag (exec_subReg x y s) fun _ hx hflag =>
    ⟨fun h => by rw [hx h, toNat_byte_sub], hflag.trans (flagByte_eq_ite (subFlag_iff ..))⟩

/-- Settles O14: the reversed difference and its flag as numbers. -/
theorem reverseSubtractReportsGreater : Obligations.ReverseSubtractReportsGreater := fun x y s =>
  completes_of_setResultAndFlag (exec_subnReg x y s) fun _ hx hflag =>
    ⟨fun h => by rw [hx h, toNat_byte_sub], hflag.trans (flagByte_eq_ite (subnFlag_iff ..))⟩

/-- Settles O15: quotient and remainder of the halving. -/
theorem bothShiftsGoRight : Obligations.BothShiftsGoRight := fun x s _ hi =>
  completes_of_setResultAndFlag (exec_of_mem_shifts hi s) fun _ hx hflag =>
    ⟨fun h => by rw [hx h, BitVec.toNat_ushiftRight, Nat.shiftRight_eq_div_pow, pow_one], by rw [hflag, shiftedOut_toNat]⟩

end Sys2Proof.Machine
end

section
/-! Control transfer and skips (41_control_transfer.md, 42_skips.md), and the two instructions whose one write is `I` or the
lock. -/

namespace Sys2Proof.Machine

open Laws.EncodesInItsRow (row_mem)

/-- A jump with the universal advance sets `pc` to its target (40_execution_cycle.md R116). -/
theorem State.jumpTo_advance (s : State) (w : Word) : (s.jumpTo w).advance = s.setPc w := by
  simp [State.jumpTo, State.advance, State.setPc]

/-- JP jumps to its immediate (41_control_transfer.md R131). -/
theorem exec_jp (nnn : Imm12) (s : State) : exec (.jp nnn) s = .next (s.setPc (absolute nnn)) :=
  congrArg Host.Outcome.next (s.jumpTo_advance _)

/-- JP V0 jumps to the sum (41_control_transfer.md R133). -/
theorem exec_jpV0 (nnn : Imm12) (s : State) : exec (.jpV0 nnn) s = .next (s.setPc (s.offsetByV0 nnn)) :=
  congrArg Host.Outcome.next (s.jumpTo_advance _)

/-- CALL with room pushes and jumps (41_control_transfer.md R132). -/
theorem exec_call_room {s : State} (h : s.stack.length ≠ s.params.stackDepth) (nnn : Imm12) :
    exec (.call nnn) s = .next ((s.setStack (s.pc :: s.stack)).setPc (absolute nnn)) := by
  show Host.Outcome.next (s.checkPush s.pc fun t => (t.jumpTo (absolute nnn)).advance) = _
  rw [State.checkPush_room _ _ _ h, State.jumpTo_advance]

/-- RET on an empty stack only advances (41_control_transfer.md R130). -/
theorem exec_ret_nil {s : State} (h : s.stack = []) (n : Nibble) : exec (.ret n) s = .next s.advance := by
  simp only [exec, execRet, h]

/-- RET pops the return address and jumps to it (41_control_transfer.md R130). -/
theorem exec_ret_cons {s : State} {a : Word} {rest : List Word} (h : s.stack = a :: rest) (n : Nibble) :
    exec (.ret n) s = .next ((s.setStack rest).setPc a) := by
  simp only [exec, execRet, h, State.jumpTo_advance]

/-- The next state of an instruction that writes the stack. -/
theorem Frame.of_setStack (s : State) (l : List Word) (p : Word) : Frame { stack := true } s ((s.setStack l).setPc p) := by
  constructor <;> intros <;> simp_all

/-- NNN + V0 does not wrap (41_control_transfer.md R133). -/
@[simp] theorem State.offsetByV0_toNat (s : State) (nnn : Imm12) :
    (s.offsetByV0 nnn).toNat = nnn.toNat + (s.v 0).toNat := by
  have hnnn := nnn.isLt
  have hv := (s.v 0).isLt
  rw [State.offsetByV0, BitVec.toNat_add, BitVec.toNat_setWidth_of_le (by decide), BitVec.toNat_setWidth_of_le (by decide)]
  omega

/-- Settles O17: JP is one write of `pc`. -/
theorem jumpEndsAtTarget : Obligations.JumpEndsAtTarget := fun nnn s =>
  ⟨_, exec_jp nnn s, absolute_eq nnn, Frame.of_pc s _, trivial⟩

/-- Settles O18: the sum is exact in 16 bits. -/
theorem offsetJumpEndsAtSum : Obligations.OffsetJumpEndsAtSum := by
  intro nnn s
  have hpc : s.offsetByV0 nnn = BitVec.ofNat 16 (nnn.toNat + (s.v 0).toNat) := by
    rw [← s.offsetByV0_toNat nnn, BitVec.ofNat_toNat, BitVec.setWidth_eq]
  exact ⟨_, exec_jpV0 nnn s, hpc, Frame.of_pc s _, s.offsetByV0_toNat nnn⟩

/-- Settles O19: with room, CALL is one write of the stack and one of `pc`. -/
theorem callPushesItsOwnAddress : Obligations.CallPushesItsOwnAddress := fun nnn s hroom =>
  ⟨_, exec_call_room hroom nnn, absolute_eq nnn, Frame.of_setStack s _ _, rfl⟩

/-- Settles O20, by the two shapes of the stack. -/
theorem returnPopsOrOnlyAdvances : Obligations.ReturnPopsOrOnlyAdvances := by
  refine fun n s => ⟨fun hnil => ?empty, fun a rest hcons => ?popped⟩
  case empty => exact ⟨_, exec_ret_nil hnil n, rfl, Frame.of_pc s _, trivial⟩
  case popped => exact ⟨_, exec_ret_cons hcons n, rfl, Frame.of_setStack s _ _, rfl⟩

/-- Settles O21: what the CALL pushes is its own address on the old stack, and that is what the RET pops. -/
theorem returnLandsOnTheCall : Obligations.ReturnLandsOnTheCall := by
  intro nnn n s hroom
  obtain ⟨t, hcall, -, -, hpushed⟩ := callPushesItsOwnAddress nnn s hroom
  refine ⟨t, hcall, fun u hu => ?_⟩
  obtain ⟨w, hret, hpc, -, hstack⟩ := (returnPopsOrOnlyAdvances n u).2 s.pc s.stack (hu.trans hpushed)
  exact ⟨w, hret, hpc, hstack⟩

/-- SE on two registers skips if they are equal (42_skips.md R153). -/
theorem exec_seReg (x y : RegIdx) (s : State) : exec (.seReg x y) s = .next (s.skipIf (s.v x == s.v y)).advance := rfl

/-- SNE on two registers skips if they differ (42_skips.md R154). -/
theorem exec_sneReg (x y : RegIdx) (s : State) : exec (.sneReg x y) s = .next (s.skipIf (s.v x != s.v y)).advance := rfl

/-- Settles O23: rows 7 and 19 of the table, and each instruction is one skip on the comparison it names. -/
theorem skipsOnRegisters : Obligations.SkipsOnRegisters :=
  ⟨encodedBy_of_row (row_mem 6) rfl, encodedBy_of_row (row_mem 18) rfl, fun x y s =>
    ⟨completes_of_skipIf (exec_seReg x y s) beq_iff_eq, completes_of_skipIf (exec_sneReg x y s) bne_iff_ne⟩⟩

/-- SKP with a key index skips if that key is pressed (42_skips.md R155). -/
theorem exec_skp_inRange {s : State} {x : RegIdx} (h : (s.v x).toNat ≤ 15) :
    exec (.skp x) s = .next (s.skipIf (s.key ((s.v x).setWidth 4))).advance :=
  congrArg Host.Outcome.next (s.checkKey_inRange _ _ h)

/-- SKNP with a key index skips if that key is not pressed (42_skips.md R156). -/
theorem exec_sknp_inRange {s : State} {x : RegIdx} (h : (s.v x).toNat ≤ 15) :
    exec (.sknp x) s = .next (s.skipIf (!s.key ((s.v x).setWidth 4))).advance :=
  congrArg Host.Outcome.next (s.checkKey_inRange _ _ h)

/-- Both raise the key index fault above 15 (42_skips.md R157). -/
theorem exec_of_mem_keySkips_outOfRange {i : Instr} {s : State} {x : RegIdx} (hi : i ∈ [Instr.skp x, Instr.sknp x])
    (h : 15 < (s.v x).toNat) :
    exec i s = .next { s with fault := faultRecordOf s (.keyIndexOutOfRange, (s.v x).setWidth 16) } := by
  rw [← State.raiseFault_eq s _ _ (by decide)]
  obtain rfl | rfl := List.mem_pair.1 hi <;> exact congrArg Host.Outcome.next (s.checkKey_outOfRange _ _ h)

/-- Settles O24: the key VX names, and the record of a VX that names none. -/
theorem skipsOnKey : Obligations.SkipsOnKey := by
  refine fun x s => ⟨fun k hk => ?_, fun hx i hi => ?_⟩
  · have hrange : (s.v x).toNat ≤ 15 := hk ▸ Nat.le_of_lt_succ k.isLt
    have hkey : (s.v x).setWidth 4 = k := BitVec.eq_of_toNat_eq (by
      rw [BitVec.toNat_setWidth, hk, Nat.mod_eq_of_lt k.isLt])
    have hskp := exec_skp_inRange hrange
    have hsknp := exec_sknp_inRange hrange
    rw [hkey] at hskp hsknp
    exact ⟨completes_of_skipIf hskp Iff.rfl, completes_of_skipIf hsknp (Bool.not_eq_true' _).to_iff⟩
  · rw [exec_of_mem_keySkips_outOfRange hi hx, BitVec.ofNat_toNat]; rfl

/-- ADD I, Vx writes the wrapped sum (44_index_memory.md R201). -/
theorem exec_addI (x : RegIdx) (s : State) : exec (.addI x) s = .next (s.setIndex (s.indexPlus x)).advance := rfl

/-- The sum modulo 2^16 (44_index_memory.md R201). -/
@[simp] theorem State.indexPlus_toNat (s : State) (x : RegIdx) :
    (s.indexPlus x).toNat = (s.index.toNat + (s.v x).toNat) % 65536 := by
  rw [State.indexPlus, BitVec.toNat_add, BitVec.toNat_setWidth_of_le (by decide)]

/-- Settles O26: one write of `I`, of the wrapped sum. -/
theorem indexAddWraps : Obligations.IndexAddWraps := fun x s =>
  completes_of_setIndex (exec_addI x s) fun t ht => by rw [ht, State.indexPlus_toNat]

/-- LD Vx, K sets the lock (45_timers_input.md R223). -/
theorem exec_ldK (x : RegIdx) (s : State) :
    exec (.ldK x) s = .next (s.setLock { active := true, target := x }).advance := rfl

/-- The next state of an instruction that writes the lock. -/
theorem Frame.of_setLock (s : State) (l : InputLock) : Frame { lock := true } s (s.setLock l).advance := by
  constructor <;> intros <;> simp_all

/-- Settles O34: one write of the lock. -/
theorem waitForKeySetsTheLock : Obligations.WaitForKeySetsTheLock := fun x s =>
  ⟨_, exec_ldK x s, rfl, Frame.of_setLock s _, rfl⟩

end Sys2Proof.Machine
end

section
/-! Loads and stores through `I` (44_index_memory.md R203 to R205): each checks its whole range first, then transfers its bytes
in ascending order; and what the next fetch sees of a store (20_memory.md R65). -/

namespace Sys2Proof.Machine

/-- LD B in range stores the digits (44_index_memory.md R203). -/
theorem exec_ldB_inRange {s : State} (h : s.index.toNat + 2 ≤ 0xFFF) (x : RegIdx) :
    exec (.ldB x) s = .next (s.writeBytes (s.dataAddress 0) (decimalDigits (s.v x))).advance :=
  congrArg Host.Outcome.next (s.checkData_inRange _ _ (.inr (by omega)))

/-- LD [I] in range stores V0..VX (44_index_memory.md R204). -/
theorem exec_storeRegs_inRange {s : State} {x : RegIdx} (h : s.index.toNat + x.toNat ≤ 0xFFF) :
    exec (.storeRegs x) s = .next (s.writeBytes (s.dataAddress 0) (s.lowRegs x)).advance :=
  congrArg Host.Outcome.next (s.checkData_inRange _ _ (.inr (by omega)))

/-- LD Vx, [I] in range loads V0..VX (44_index_memory.md R205). -/
theorem exec_loadRegs_inRange {s : State} {x : RegIdx} (h : s.index.toNat + x.toNat ≤ 0xFFF) :
    exec (.loadRegs x) s = .next (s.loadLowRegs x).advance :=
  congrArg Host.Outcome.next (s.checkData_inRange _ _ (.inr (by omega)))

/-- The three digits are hundreds, tens and units (44_index_memory.md R203). -/
theorem decimalDigits_getD_toNat (b : Byte) {k : Nat} (hk : k < 3) : ((decimalDigits b).getD k 0).toNat =
    if k = 0 then b.toNat / 100 else if k = 1 then b.toNat / 10 % 10 else b.toNat % 10 := by
  interval_cases k <;> rfl

/-- V0..VX by a number instead of a register index. -/
theorem State.lowRegs_getD_ofNat (s : State) (x : RegIdx) {k : Nat} (hk : k ≤ x.toNat) :
    (s.lowRegs x).getD k 0 = s.v (BitVec.ofNat 4 k) := by
  have hj : (BitVec.ofNat 4 k).toNat = k := by
    have hx := x.isLt
    rw [BitVec.toNat_ofNat]; omega
  have hget := s.lowRegs_getD x (BitVec.ofNat 4 k) (hj.symm ▸ hk)
  rwa [hj] at hget

/-- A stored byte is read back at its address `I + k`, inside memory. -/
theorem State.writeBytes_dataAddress (s : State) (l : List Byte) (h : s.index.toNat + l.length ≤ Config.memorySize) {k : Nat}
    (hk : k < l.length) : (s.writeBytes (s.dataAddress 0) l).readByte (s.dataAddress k) = l.getD k 0 := by
  have hoffset : s.dataAddress k - s.dataAddress 0 = k := Nat.add_sub_cancel_left ..
  rw [State.writeBytes_readByte _ (s.dataAddress 0) _ _ h, hoffset,
    if_pos ⟨Nat.le_add_right .., Nat.add_lt_add_left hk _⟩]

/-- The next state of an instruction that loads V0..VX. -/
theorem Frame.of_loadLowRegs (s : State) (x : RegIdx) :
    Frame { regs := fun j => j.toNat ≤ x.toNat } s (s.loadLowRegs x).advance := by
  constructor <;> intros <;> simp_all

/-- Settles O27: the digits as numbers, read back where they were stored. -/
theorem decimalDigitsAreStored : Obligations.DecimalDigitsAreStored := by
  intro x s hrange
  have hread : ∀ k, k < 3 → ((s.writeBytes (s.dataAddress 0) (decimalDigits (s.v x))).advance.readByte
      (s.dataAddress k)).toNat = if k = 0 then (s.v x).toNat / 100 else if k = 1 then (s.v x).toNat / 10 % 10
        else (s.v x).toNat % 10 := by
    intro k hk
    rw [State.advance_readByte, s.writeBytes_dataAddress (decimalDigits (s.v x)) (Nat.succ_le_succ hrange) hk,
      decimalDigits_getD_toNat _ hk]
  exact ⟨_, exec_ldB_inRange hrange x, rfl, Frame.of_store s 2 _ hrange rfl, hread 0 (by decide), hread 1 (by decide),
    hread 2 (by decide)⟩

/-- Settles O28: the registers, read back where they were stored. -/
theorem lowRegistersAreStored : Obligations.LowRegistersAreStored := by
  intro x s hrange
  have hlength := s.length_lowRegs x
  refine ⟨_, exec_storeRegs_inRange hrange, rfl, Frame.of_store s x.toNat _ hrange hlength, fun j hj => ?_⟩
  rw [State.advance_readByte, State.writeBytes_dataAddress _ _ (by rw [hlength]; exact Nat.succ_le_succ hrange)
    (by omega), State.lowRegs_getD _ _ _ hj]

/-- Settles O29: the one update of the low registers, register by register. -/
theorem lowRegistersAreLoaded : Obligations.LowRegistersAreLoaded := by
  intro x s hrange
  refine ⟨_, exec_loadRegs_inRange hrange, rfl, Frame.of_loadLowRegs s x, fun j hj => ?_⟩
  rw [State.advance_v, State.loadLowRegs_v, if_pos hj]

/-- The word the next fetch reads after `l` has been stored from `I` on, inside memory, when its `k`-th byte is `f k`. -/
theorem State.opcodeAt_writeBytes_advance (s : State) (l : List Byte) (f : Nat → Byte)
    (inside : s.index.toNat + l.length ≤ Config.memorySize) (hf : ∀ k, k < l.length → l.getD k 0 = f k) :
    (s.writeBytes (s.dataAddress 0) l).advance.opcodeAt =
      overlaid s (s.dataAddress 0) l.length f (s.pc + 2).toNat ++
        overlaid s (s.dataAddress 0) l.length f ((s.pc + 2).toNat + 1) := by
  rw [← s.writeBytes_eq_overlaid l f _ inside hf, ← s.writeBytes_eq_overlaid l f _ inside hf]
  rfl

/-- Settles O31: each byte of the next word reads as the store left it. -/
theorem storeIsSeenByTheNextFetch : Obligations.StoreIsSeenByTheNextFetch := by
  refine fun x s _ => ⟨fun hrange => ?digits, fun hrange => ?registers⟩
  case digits =>
    refine ⟨_, exec_ldB_inRange hrange x, rfl, s.opcodeAt_writeBytes_advance (decimalDigits (s.v x)) _
      (Nat.succ_le_succ hrange) fun k hk => BitVec.eq_of_toNat_eq ?_⟩
    rw [BitVec.toNat_ofNat, ← decimalDigits_getD_toNat _ hk, Nat.mod_eq_of_lt (BitVec.isLt _)]
  case registers =>
    have hlength := s.length_lowRegs x
    have hfetch := s.opcodeAt_writeBytes_advance (s.lowRegs x) _ (hlength ▸ Nat.succ_le_succ hrange)
      fun k hk => s.lowRegs_getD_ofNat x (Nat.le_of_lt_succ (lt_of_lt_of_eq hk hlength))
    rw [hlength] at hfetch
    exact ⟨_, exec_storeRegs_inRange hrange, rfl, hfetch⟩

end Sys2Proof.Machine
end

section
/-! Drawing (46_display.md R242 to R246): DRW as the complement of a set of pixels, and twice the same complement. -/

namespace Sys2Proof.Machine

/-- DRW with its bytes in memory draws them and writes the collision to VF (46_display.md R242). -/
theorem exec_drw_inRange {s : State} {n : Nibble} (h : n.toNat = 0 ∨ s.index.toNat + n.toNat - 1 ≤ 0xFFF) (x y : RegIdx) :
    exec (.drw x y n) s =
      .next ((s.setScreen (s.drawn x y n).screen).setV vf (flagByte (s.drawn x y n).collision)).advance :=
  congrArg Host.Outcome.next (s.checkData_inRange _ _ h)

/-- The pixels under a set bit of the sprite that DRW draws. -/
abbrev State.covers (s : State) (x y : RegIdx) (n : Nibble) (u v : Nat) : Prop :=
  spriteCovers (s.v x).toNat (s.v y).toNat (s.readBytes (s.dataAddress 0) n.toNat) u v

/-- What DRW ends with, pixel by pixel: a sprite has at most 15 rows, so no pixel is drawn twice. -/
theorem State.drawn_spec (s : State) (x y : RegIdx) (n : Nibble) :
    (∀ u v, s.covers x y n u v → (s.drawn x y n).screen.pixel u v = !s.screen.pixel u v) ∧
      (∀ u v, ¬ s.covers x y n u v → (s.drawn x y n).screen.pixel u v = s.screen.pixel u v) ∧
      ((s.drawn x y n).collision = true ↔ ∃ u v, s.covers x y n u v ∧ s.screen.pixel u v = true) := by
  have hshort : (s.readBytes (s.dataAddress 0) n.toNat).length ≤ Config.rows := by
    rw [State.length_readBytes]; exact n.isLt.le.trans (by decide)
  simpa [State.drawn] using
    drawSprite_spec (s.v x).toNat (s.v y).toNat _ { screen := s.screen, collision := false } hshort

/-- DRW writes the collision to VF (46_display.md R243). -/
theorem State.drw_vf (s : State) (sc : Screen) (b : Bool) :
    ((s.setScreen sc).setV vf (flagByte b)).advance.v vf = flagByte b := by
  rw [State.advance_v, State.setV_v, if_pos rfl]

/-- A flag of 1 is a condition that holds. -/
theorem flagByte_eq_one_iff {b : Bool} : flagByte b = 1 ↔ b = true := by cases b <;> decide

/-- A flag of 0 is a condition that does not hold. -/
theorem flagByte_eq_zero_iff {b : Bool} : flagByte b = 0 ↔ b = false := by cases b <;> decide

/-- The next state of DRW. -/
theorem Frame.of_draw (s : State) (sc : Screen) (b : Byte) :
    Frame { regs := fun j => j == vf, screen := true } s ((s.setScreen sc).setV vf b).advance := by
  constructor <;> intros <;> simp_all

/-- Settles O40: the pixels and the collision of the drawing, with the collision written to VF. -/
theorem drawComplementsCoveredPixels : Obligations.DrawComplementsCoveredPixels := by
  intro x y n s hrange
  obtain ⟨hcovered, huncovered, hcollision⟩ := s.drawn_spec x y n
  refine ⟨_, exec_drw_inRange hrange x y, rfl, Frame.of_draw s _ _, hcovered, huncovered, fun hc => ?_, fun hc => ?_⟩
  · exact (s.drw_vf _ _).trans (flagByte_eq_one_iff.2 (hcollision.2 hc))
  · exact (s.drw_vf _ _).trans (flagByte_eq_zero_iff.2 (Bool.eq_false_iff.2 fun h => hc (hcollision.1 h)))

/-- The bytes read from `I` on are the same where each one is. -/
theorem State.readBytes_congr {s u : State} {n : Nat}
    (h : ∀ k, k < n → u.readByte (u.dataAddress k) = s.readByte (s.dataAddress k)) :
    u.readBytes (u.dataAddress 0) n = s.readBytes (s.dataAddress 0) n :=
  List.map_congr_left fun k hk => h k (List.mem_range.1 hk)

/-- Settles O41: the second draw covers the same pixels, complements the complements, and finds one of them on exactly where
the first screen had it off. -/
theorem drawingTwiceRestoresTheScreen : Obligations.DrawingTwiceRestoresTheScreen := by
  intro x y x' y' n s hrange
  obtain ⟨hcovered, huncovered, -⟩ := s.drawn_spec x y n
  refine ⟨_, exec_drw_inRange hrange x y, fun u hx hy hindex hbytes (hscreen : u.screen = (s.drawn x y n).screen) => ?_⟩
  have hsame : u.covers x' y' n = s.covers x y n := by
    funext p q
    rw [State.covers, hx, hy, State.readBytes_congr hbytes]
  obtain ⟨hcovered', huncovered', hcollision'⟩ := u.drawn_spec x' y' n
  rw [hsame, hscreen] at hcovered' huncovered' hcollision'
  refine ⟨_, exec_drw_inRange (hindex ▸ hrange) x' y', Screen.ext_pixel fun p q => ?pixel, ?flag⟩
  case pixel =>
    by_cases hc : s.covers x y n p q
    · exact (hcovered' p q hc).trans (by rw [hcovered p q hc, Bool.not_not])
    · exact (huncovered' p q hc).trans (huncovered p q hc)
  case flag =>
    rw [u.drw_vf, flagByte_eq_one_iff, hcollision']
    refine exists_congr fun p => exists_congr fun q => and_congr_right fun hc => ?_
    rw [hcovered p q hc, Bool.not_eq_true']

end Sys2Proof.Machine
end

section
/-! Every instruction either raises the fault its condition names or completes inside its footprint (60_exceptions.md R261 to
R265; 10_state.md R22, R24). -/

namespace Sys2Proof.Machine

/-! ### Faulting instructions -/

/-- The range fault of a memory instruction, as a record (60_exceptions.md R262). -/
theorem State.checkData_fault (s : State) (n : Nat) (rest : State → State) (h : 0 < n ∧ 0xFFF < s.index.toNat + n - 1) :
    s.checkData n rest = { s with fault := faultRecordOf s (.dataOutOfRange, s.index) } :=
  (s.checkData_outOfRange n rest (by omega)).trans (s.raiseFault_eq _ _ (by decide))

/-- CALL on a full stack records the overflow (60_exceptions.md R262). -/
theorem exec_call_full {s : State} (h : s.stack.length = s.params.stackDepth) (nnn : Imm12) :
    exec (.call nnn) s =
      .next { s with fault := faultRecordOf s (.stackOverflow, BitVec.ofNat 16 s.stack.length) } :=
  congrArg Host.Outcome.next ((s.checkPush_full _ _ h).trans (s.raiseFault_eq _ _ (by decide)))

/-- What a fault condition that holds says, and the fault it names. -/
theorem of_ite_some_eq_some {α : Type} {p : Prop} [Decidable p] {a b : α} (h : (if p then some a else none) = some b) :
    p ∧ a = b := by
  obtain ⟨hp, hab⟩ := Option.ite_none_right_eq_some.1 h
  exact ⟨hp, Option.some.inj hab⟩

/-- What a fault condition that does not hold says. -/
theorem not_of_ite_some_eq_none {α : Type} {p : Prop} [Decidable p] {a : α} (h : (if p then some a else none) = none) :
    ¬ p :=
  fun hp => by rw [if_pos hp] at h; cases h

/-- What a range condition that does not hold says. -/
theorem le_of_ite_some_eq_none {α : Type} {m n : Nat} {a : α} (h : (if m < n then some a else none) = none) : n ≤ m :=
  Nat.le_of_not_lt (not_of_ite_some_eq_none h)

/-- DRW without a fault has no byte to read or its bytes in memory. -/
theorem drw_inRange_of_faultOf_eq_none {x y : RegIdx} {n : Nibble} {s : State} (h : faultOf (.drw x y n) s = none) :
    n.toNat = 0 ∨ s.index.toNat + n.toNat - 1 ≤ 0xFFF := by
  have hrange := not_of_ite_some_eq_none h
  omega

/-- Settles O42, by the seven instructions that can fault. -/
theorem faultingInstructionOnlyRecords : Obligations.FaultingInstructionOnlyRecords := by
  intro i s f h
  cases i
  case call nnn =>
    obtain ⟨hfull, rfl⟩ := of_ite_some_eq_some h
    exact exec_call_full hfull nnn
  case skp x =>
    obtain ⟨hkey, rfl⟩ := of_ite_some_eq_some h
    exact exec_of_mem_keySkips_outOfRange (List.mem_pair.2 (.inl rfl)) hkey
  case sknp x =>
    obtain ⟨hkey, rfl⟩ := of_ite_some_eq_some h
    exact exec_of_mem_keySkips_outOfRange (List.mem_pair.2 (.inr rfl)) hkey
  case drw x y n =>
    obtain ⟨hrange, rfl⟩ := of_ite_some_eq_some h
    exact congrArg Host.Outcome.next (s.checkData_fault _ _ hrange)
  case ldB x =>
    obtain ⟨hrange, rfl⟩ := of_ite_some_eq_some h
    exact congrArg Host.Outcome.next (s.checkData_fault _ _ (by omega))
  case storeRegs x =>
    obtain ⟨hrange, rfl⟩ := of_ite_some_eq_some h
    exact congrArg Host.Outcome.next (s.checkData_fault _ _ (by omega))
  case loadRegs x =>
    obtain ⟨hrange, rfl⟩ := of_ite_some_eq_some h
    exact congrArg Host.Outcome.next (s.checkData_fault _ _ (by omega))
  all_goals cases h

/-! ### Completing instructions -/

/-- LD ST, Vx copies the register into ST (45_timers_input.md R222). -/
theorem exec_ldSt (x : RegIdx) (s : State) : exec (.ldSt x) s = .next (s.setSt (s.v x)).advance := rfl

/-- The next state of an instruction that writes ST. -/
theorem Frame.of_setSt (s : State) (b : Byte) : Frame { st := true } s (s.setSt b).advance := by
  constructor <;> intros <;> simp_all

/-- An instruction that completes with a result completes. -/
theorem Completes.weaken {i : Instr} {s : State} {pc : Word} {w : Footprint} {result : State → Prop}
    (h : Completes i s pc w result) : Completes i s pc w (fun _ => True) := by
  obtain ⟨t, hexec, hpc, hframe, -⟩ := h
  exact ⟨t, hexec, hpc, hframe, trivial⟩

/-- RET completes on every stack (41_control_transfer.md R130). -/
theorem completes_ret (n : Nibble) (s : State) :
    Completes (.ret n) s (s.stack.headD (s.pc + 2)) { stack := true } (fun _ => True) := by
  cases hstack : s.stack with
  | nil => exact ⟨_, exec_ret_nil hstack n, rfl, Frame.of_setStack s s.stack (s.pc + 2), trivial⟩
  | cons a rest => exact ⟨_, exec_ret_cons hstack n, rfl, Frame.of_setStack s rest a, trivial⟩

/-- A skip that is taken when `p` does not hold. -/
theorem completes_of_skipIf_not {i : Instr} {s : State} {c : Bool} {p : Prop} [Decidable p]
    (hexec : exec i s = .next (s.skipIf c).advance) (hc : c = true ↔ ¬ p) :
    Completes i s (if p then s.pc + 2 else s.pc + 4) {} (fun _ => True) := by
  rw [← ite_not]
  exact completes_of_skipIf hexec hc

/-- Settles O43: each instruction by the shape of its one write. -/
theorem instructionStaysInItsFootprint : Obligations.InstructionStaysInItsFootprint := by
  intro i s h
  cases i with
  | cls => exact completes_of_setScreen (exec_cls s) fun _ _ => trivial
  | ret n => exact completes_ret n s
  | jp nnn => exact ⟨_, exec_jp nnn s, rfl, Frame.of_pc s _, trivial⟩
  | call nnn => exact ⟨_, exec_call_room (not_of_ite_some_eq_none h) nnn, rfl, Frame.of_setStack s _ _, trivial⟩
  | seImm x nn => exact completes_of_skipIf (exec_seImm x nn s) beq_iff_eq
  | sneImm x nn => exact completes_of_skipIf_not (exec_sneImm x nn s) bne_iff_ne
  | seReg x y => exact completes_of_skipIf (exec_seReg x y s) beq_iff_eq
  | sneReg x y => exact completes_of_skipIf_not (exec_sneReg x y s) bne_iff_ne
  | skp x => exact completes_of_skipIf (exec_skp_inRange (le_of_ite_some_eq_none h)) Iff.rfl
  | sknp x => exact completes_of_skipIf_not (exec_sknp_inRange (le_of_ite_some_eq_none h)) (by simp)
  | ldImm x nn => exact completes_of_setV (exec_ldImm x nn s) fun _ _ => trivial
  | addImm x nn => exact completes_of_setV (exec_addImm x nn s) fun _ _ => trivial
  | ldReg x y => exact completes_of_setV (exec_ldReg x y s) fun _ _ => trivial
  | orReg x y => exact completes_of_setV (exec_orReg x y s) fun _ _ => trivial
  | andReg x y => exact completes_of_setV (exec_andReg x y s) fun _ _ => trivial
  | xorReg x y => exact completes_of_setV (exec_xorReg x y s) fun _ _ => trivial
  | addReg x y => exact completes_of_setResultAndFlag (exec_addReg x y s) fun _ _ _ => trivial
  | subReg x y => exact completes_of_setResultAndFlag (exec_subReg x y s) fun _ _ _ => trivial
  | subnReg x y => exact completes_of_setResultAndFlag (exec_subnReg x y s) fun _ _ _ => trivial
  | shr x => exact (bothShiftsGoRight x s _ (List.mem_pair.2 (.inl rfl))).weaken
  | shre x => exact (bothShiftsGoRight x s _ (List.mem_pair.2 (.inr rfl))).weaken
  | ldI nnn => exact completes_of_setIndex (exec_ldI nnn s) fun _ _ => trivial
  | addI x => exact completes_of_setIndex (exec_addI x s) fun _ _ => trivial
  | ldF x => exact completes_of_setIndex (exec_ldF x s) fun _ _ => trivial
  | jpV0 nnn => exact ⟨_, exec_jpV0 nnn s, rfl, Frame.of_pc s _, trivial⟩
  | rnd x nn => exact completes_of_setV (exec_rnd x nn s) fun _ _ => trivial
  | drw x y n => exact (drawComplementsCoveredPixels x y n s (drw_inRange_of_faultOf_eq_none h)).weaken
  | ldB x => exact (decimalDigitsAreStored x s (le_of_ite_some_eq_none h)).weaken
  | storeRegs x => exact (lowRegistersAreStored x s (le_of_ite_some_eq_none h)).weaken
  | loadRegs x => exact (lowRegistersAreLoaded x s (le_of_ite_some_eq_none h)).weaken
  | ldDt x => exact completes_of_setV (exec_ldDt x s) fun _ _ => trivial
  | ld15 x => exact completes_of_setV (exec_ld15 x s) fun _ _ => trivial
  | ldSt x => exact ⟨_, exec_ldSt x s, rfl, Frame.of_setSt s _, trivial⟩
  | ldK x => exact (waitForKeySetsTheLock x s).weaken

/-! ### What every instruction does -/

/-- The two things an instruction can do: record the fault its condition names, or complete inside its footprint. -/
theorem exec_cases (i : Instr) (s : State) :
    (∃ f, faultOf i s = some f ∧ exec i s = .next { s with fault := faultRecordOf s f }) ∨
      (faultOf i s = none ∧ ∃ t, exec i s = .next t ∧ Frame (footprint i s) s t) := by
  cases h : faultOf i s with
  | some f => exact .inl ⟨f, rfl, faultingInstructionOnlyRecords i s f h⟩
  | none =>
    obtain ⟨t, hexec, -, hframe, -⟩ := instructionStaysInItsFootprint i s h
    exact .inr ⟨rfl, t, hexec, hframe⟩

end Sys2Proof.Machine
end

section
/-! The invariant of the machine (10_state.md R28, R35; 60_exceptions.md R262, R263): what one execution cycle and one host
transaction can do, each said once, and that neither breaks it. -/

namespace Sys2Proof.Machine

/-! ### Memory, stack and fault record under an instruction -/

/-- An instruction changes memory by at most one run of bytes. -/
theorem exec_mem_eq_writeBytes {i : Instr} {s : State} (hnone : faultOf i s = none) :
    ∃ t a l, exec i s = .next t ∧ t.mem = Memory.writeBytes s.params.font a l s.mem := by
  cases i
  case call nnn => exact ⟨_, 0, [], exec_call_room (not_of_ite_some_eq_none hnone) nnn, rfl⟩
  case ret n =>
    cases hstack : s.stack with
    | nil => exact ⟨_, 0, [], exec_ret_nil hstack n, rfl⟩
    | cons a rest => exact ⟨_, 0, [], exec_ret_cons hstack n, rfl⟩
  case seImm x nn => exact ⟨_, 0, [], exec_seImm x nn s, s.skipIf_mem _⟩
  case sneImm x nn => exact ⟨_, 0, [], exec_sneImm x nn s, s.skipIf_mem _⟩
  case seReg x y => exact ⟨_, 0, [], exec_seReg x y s, s.skipIf_mem _⟩
  case sneReg x y => exact ⟨_, 0, [], exec_sneReg x y s, s.skipIf_mem _⟩
  case skp x => exact ⟨_, 0, [], exec_skp_inRange (le_of_ite_some_eq_none hnone), s.skipIf_mem _⟩
  case sknp x => exact ⟨_, 0, [], exec_sknp_inRange (le_of_ite_some_eq_none hnone), s.skipIf_mem _⟩
  case drw x y n => exact ⟨_, 0, [], exec_drw_inRange (drw_inRange_of_faultOf_eq_none hnone) x y, rfl⟩
  case ldB x => exact ⟨_, _, _, exec_ldB_inRange (le_of_ite_some_eq_none hnone) x, rfl⟩
  case storeRegs x => exact ⟨_, _, _, exec_storeRegs_inRange (le_of_ite_some_eq_none hnone), rfl⟩
  case loadRegs x => exact ⟨_, 0, [], exec_loadRegs_inRange (le_of_ite_some_eq_none hnone), rfl⟩
  all_goals exact ⟨_, 0, [], rfl, rfl⟩

/-- An instruction that completes leaves memory in its canonical form. -/
theorem exec_keeps_canonicalMemory {i : Instr} {s t : State} (hnone : faultOf i s = none) (hexec : exec i s = .next t)
    (h : Memory.wf s.params.font s.mem) : Memory.wf s.params.font t.mem := by
  obtain ⟨u, a, l, hu, hmem⟩ := exec_mem_eq_writeBytes hnone
  cases hu.symm.trans hexec
  rw [hmem]
  exact Memory.writeBytes_wf a l s.mem h

/-- Only RET and CALL write the stack (10_state.md R28). -/
theorem footprint_stack {i : Instr} {s : State} (h : (footprint i s).stack ≠ false) :
    (∃ n, i = .ret n) ∨ ∃ nnn, i = .call nnn := by
  cases i
  case ret n => exact .inl ⟨n, rfl⟩
  case call nnn => exact .inr ⟨nnn, rfl⟩
  all_goals exact absurd rfl h

/-- An instruction that completes leaves the stack within its capacity: RET shortens it, and CALL has checked for room
(decision D17). -/
theorem exec_keeps_stackBounded {i : Instr} {s t : State} (hnone : faultOf i s = none) (hexec : exec i s = .next t)
    (hframe : Frame (footprint i s) s t) (h : s.stack.length ≤ s.params.stackDepth) :
    t.stack.length ≤ s.params.stackDepth := by
  by_cases hw : (footprint i s).stack = false
  · rw [hframe.stack hw]; exact h
  obtain ⟨n, rfl⟩ | ⟨nnn, rfl⟩ := footprint_stack hw
  · cases hstack : s.stack with
    | nil =>
      cases (exec_ret_nil hstack n).symm.trans hexec
      exact h
    | cons a rest =>
      cases (exec_ret_cons hstack n).symm.trans hexec
      rw [hstack] at h
      exact (Nat.le_succ _).trans h
  · have hroom := not_of_ite_some_eq_none hnone
    cases (exec_call_room hroom nnn).symm.trans hexec
    exact Nat.lt_of_le_of_ne h hroom

/-- The faults of instructions by cause, with what their values can be (60_exceptions.md R262). -/
theorem faultOf_cases {i : Instr} {s : State} {f : FaultCause × Word} (h : faultOf i s = some f) :
    Instr.faultCause i = some f.1 ∧
      (f.1 = .stackOverflow ∨ (f.1 = .keyIndexOutOfRange ∧ 15 < f.2.toNat ∧ f.2.toNat ≤ 0xFF) ∨
        (f.1 = .dataOutOfRange ∧ 0xFF0 < f.2.toNat)) := by
  have hkey : ∀ b : Byte, 15 < b.toNat → 15 < (b.setWidth 16).toNat ∧ (b.setWidth 16).toNat ≤ 0xFF := by
    intro b hb
    rw [BitVec.toNat_setWidth_of_le (by decide)]
    exact ⟨hb, Nat.le_of_lt_succ b.isLt⟩
  cases i
  case call nnn =>
    obtain ⟨-, rfl⟩ := of_ite_some_eq_some h
    exact ⟨rfl, .inl rfl⟩
  case skp x =>
    obtain ⟨hrange, rfl⟩ := of_ite_some_eq_some h
    exact ⟨rfl, .inr (.inl ⟨rfl, hkey _ hrange⟩)⟩
  case sknp x =>
    obtain ⟨hrange, rfl⟩ := of_ite_some_eq_some h
    exact ⟨rfl, .inr (.inl ⟨rfl, hkey _ hrange⟩)⟩
  case drw x y n =>
    obtain ⟨hrange, rfl⟩ := of_ite_some_eq_some h
    have hn := n.isLt
    exact ⟨rfl, .inr (.inr ⟨rfl, (by omega : 0xFF0 < s.index.toNat)⟩)⟩
  case ldB x =>
    obtain ⟨hrange, rfl⟩ := of_ite_some_eq_some h
    exact ⟨rfl, .inr (.inr ⟨rfl, (by omega : 0xFF0 < s.index.toNat)⟩)⟩
  case storeRegs x =>
    obtain ⟨hrange, rfl⟩ := of_ite_some_eq_some h
    have hx := x.isLt
    exact ⟨rfl, .inr (.inr ⟨rfl, (by omega : 0xFF0 < s.index.toNat)⟩)⟩
  case loadRegs x =>
    obtain ⟨hrange, rfl⟩ := of_ite_some_eq_some h
    have hx := x.isLt
    exact ⟨rfl, .inr (.inr ⟨rfl, (by omega : 0xFF0 < s.index.toNat)⟩)⟩
  all_goals cases h

/-- The record of a fault raised by the instruction at `pc` is legal. -/
theorem legal_faultRecordOf {i : Instr} {s : State} {f : FaultCause × Word} (hpc : s.pc.toNat ≤ 0xFFE)
    (hdec : decode s.opcodeAt = .ok i) (hf : faultOf i s = some f) : (faultRecordOf s f).legal = true := by
  obtain ⟨hcause, h⟩ := faultOf_cases hf
  obtain ⟨cause, value⟩ := f
  obtain rfl | ⟨rfl, hlow, hhigh⟩ | ⟨rfl, hlow⟩ := h
  · simp [FaultRecord.legal, faultRecordOf, FaultCause.code, hpc, hdec, hcause]
  · simp [FaultRecord.legal, faultRecordOf, FaultCause.code, hpc, hdec, hcause, hlow, hhigh]
  · simp [FaultRecord.legal, faultRecordOf, FaultCause.code, hpc, hdec, hcause, hlow]

/-- The record of a fetch that has no word to read is legal (60_exceptions.md R262). -/
theorem legal_fetchFault {s : State} (hpc : 0xFFE < s.pc.toNat) :
    (s.raiseFault .fetchOutOfRange s.pc).fault.legal = true := by
  simp [FaultRecord.legal, FaultCause.code, hpc]

/-! ### One execution cycle -/

/-- The ways a machine goes through the execution part of a step (40_execution_cycle.md R112 to R119). -/
inductive Cycle (s : State) : State → Prop
  /-- A FAULTED or AWAITING_KEY machine executes nothing. -/
  | suspended (hstop : s.runState ≠ .running) : Cycle s s
  /-- No word can be fetched at `pc`. -/
  | fetchFault (hrun : s.runState = .running) (hpc : 0xFFE < s.pc.toNat) : Cycle s (s.raiseFault .fetchOutOfRange s.pc)
  /-- The word is an unknown opcode. -/
  | unknown (hrun : s.runState = .running) (hpc : s.pc.toNat ≤ 0xFFE) : Cycle s (s.unknownOpcode s.opcodeAt)
  /-- The instruction raises its fault. -/
  | faulted {i : Instr} {f : FaultCause × Word} (hrun : s.runState = .running) (hpc : s.pc.toNat ≤ 0xFFE)
      (hdec : decode s.opcodeAt = .ok i) (hf : faultOf i s = some f) : Cycle s { s with fault := faultRecordOf s f }
  /-- The instruction completes inside its footprint. -/
  | completed {i : Instr} {t : State} (hrun : s.runState = .running) (hnone : faultOf i s = none)
      (hexec : exec i s = .next t) (hframe : Frame (footprint i s) s t) : Cycle s t

/-- A RUNNING machine at an unknown opcode reports it (40_execution_cycle.md R118). -/
theorem guardedPart_of_unknown {s : State} {r : Reject} (hrun : s.runState = .running) (hpc : s.pc.toNat ≤ 0xFFE)
    (hdec : decode s.opcodeAt = .error r) : guardedPart s = .next (s.unknownOpcode s.opcodeAt) := by
  rw [guardedPart_running hrun, executionPart_fetched hpc, hdec]

/-- The execution part of a step always has a next state, and it is one of these. -/
theorem guardedPart_cycle (s : State) : ∃ t, guardedPart s = .next t ∧ Cycle s t := by
  by_cases hrun : s.runState = .running
  · rcases Nat.lt_or_ge 0xFFE s.pc.toNat with hpc | hpc
    · exact ⟨_, (guardedPart_running hrun).trans (executionPart_outOfRange hpc), .fetchFault hrun hpc⟩
    · cases hdec : decode s.opcodeAt with
      | error r => exact ⟨_, guardedPart_of_unknown hrun hpc hdec, .unknown hrun hpc⟩
      | ok i =>
        have hguard := guardedPart_of_decode hrun hpc hdec
        obtain ⟨f, hf, hexec⟩ | ⟨hnone, t, hexec, hframe⟩ := exec_cases i s
        · exact ⟨_, hguard.trans hexec, .faulted hrun hpc hdec hf⟩
        · exact ⟨t, hguard.trans hexec, .completed hrun hnone hexec hframe⟩
  · exact ⟨s, guardedPart_suspended hrun, .suspended hrun⟩

/-- What the execution part of a step never writes: DT, the time of the last decay, the sampled time and the parameters. -/
structure ClockKept (s t : State) : Prop where
  dt       : t.dt = s.dt
  lastTick : t.lastTick = s.lastTick
  now      : t.now = s.now
  params   : t.params = s.params

/-- The execution part of a step keeps these four. -/
theorem Cycle.clockKept {s t : State} (h : Cycle s t) : ClockKept s t := by
  cases h with
  | suspended => exact ⟨rfl, rfl, rfl, rfl⟩
  | fetchFault => exact ⟨rfl, rfl, rfl, rfl⟩
  | unknown => exact ⟨rfl, rfl, rfl, rfl⟩
  | faulted => exact ⟨rfl, rfl, rfl, rfl⟩
  | completed _ _ _ hframe => exact ⟨hframe.dt, hframe.lastTick, hframe.now, hframe.params⟩

/-- The execution part of a step keeps the invariant. -/
theorem Cycle.keeps_inv {s t : State} (h : Cycle s t) (hinv : s.Inv) : t.Inv := by
  cases h with
  | suspended => exact hinv
  | fetchFault hrun hpc => exact ⟨hinv.canonicalMemory, hinv.stackBounded, legal_fetchFault hpc, hinv.tickInPast⟩
  | unknown => exact ⟨hinv.canonicalMemory, hinv.stackBounded, hinv.legalFault, hinv.tickInPast⟩
  | faulted hrun hpc hdec hf =>
    exact ⟨hinv.canonicalMemory, hinv.stackBounded, legal_faultRecordOf hpc hdec hf, hinv.tickInPast⟩
  | completed hrun hnone hexec hframe =>
    refine ⟨?_, ?_, hframe.fault ▸ hinv.legalFault, ?_⟩
    · rw [hframe.params]; exact exec_keeps_canonicalMemory hnone hexec hinv.canonicalMemory
    · rw [hframe.params]; exact exec_keeps_stackBounded hnone hexec hframe hinv.stackBounded
    · rw [hframe.lastTick, hframe.now]; exact hinv.tickInPast

/-! ### One transaction -/

/-- A transaction whose time does not run backwards makes its move. -/
theorem atTime_of_le {now : Nat} {s : State} (h : s.now ≤ now) (m : Result) : atTime now s m = m := if_neg (Nat.not_lt.2 h)

/-- A transaction whose time runs backwards stops the machine (93_implementation_defined.md U15). -/
theorem atTime_of_lt {now : Nat} {s : State} (h : now < s.now) (m : Result) : atTime now s m = .fault .timeRanBackwards :=
  if_pos h

/-- A step is next, and `u` is the machine at time `now` with that step's inputs sampled (10_state.md R44, R45). -/
inductive Sampled (s : State) : State → Nat → Prop
  | scheduled {now : Nat} {rnd : Byte} {rest : List Transaction} (h : StepScheduled s now rnd rest) :
      Sampled s ((s.setSchedule rest).latch now rnd) now
  | free (h : s.schedule = []) : Sampled s (s.countDraw.latch s.freeNow s.freeRnd) s.freeNow

/-- Sampling writes the model's own input fields alone, and time does not run backwards. -/
theorem Sampled.eq_with {s u : State} {now : Nat} (h : Sampled s u now) :
    u = { s with now := now, rnd := u.rnd, draws := u.draws, schedule := u.schedule } ∧ s.now ≤ now := by
  cases h with
  | scheduled h => exact ⟨rfl, h.2⟩
  | free => exact ⟨rfl, Nat.le_add_right ..⟩

/-- The answers of the host's transactions that only read, or are rejected (60_exceptions.md R268, R284). -/
inductive Answers (s : State) : Transaction → Output → Prop
  | screen : Answers s .getScreen (.screen s.screen.snapshot)
  | fault : Answers s .getFault (.faultStatus s.fault)
  | rejected {bytes : List Byte} {now : Nat} (h : Config.maxImage < bytes.length) :
      Answers s (.loadProgram bytes now) .invalidProgram

/-- The moves of the machine, one transaction each (10_state.md R46). -/
inductive Transition (s : State) : State → Prop
  | step {u t : State} {now : Nat} (hu : Sampled s u now) (hcycle : Cycle u t) : Transition s (t.timerDecay now)
  | reset {now : Nat} {rest : List Transaction} (hs : s.schedule = .construct now :: rest ∨ s.schedule = .reset now :: rest)
      (hnow : s.now ≤ now) : Transition s ((s.setSchedule rest).hostReset now)
  | load {bytes : List Byte} {now : Nat} {rest : List Transaction} (hs : s.schedule = .loadProgram bytes now :: rest)
      (hlen : bytes.length ≤ Config.maxImage) (hnow : s.now ≤ now) :
      Transition s (((s.setSchedule rest).hostLoad bytes now).emit .loaded)
  | press {k : Nibble} {rest : List Transaction} (hs : s.schedule = .pressKey k :: rest) :
      Transition s ((s.setSchedule rest).pressKey k)
  | release {k : Nibble} {rest : List Transaction} (hs : s.schedule = .releaseKey k :: rest) :
      Transition s ((s.setSchedule rest).releaseKey k)
  | answer {tr : Transaction} {o : Output} {rest : List Transaction} (hs : s.schedule = tr :: rest) (ho : Answers s tr o) :
      Transition s ((s.setSchedule rest).emit o)

/-- A load of an image that fits makes the loaded machine (70_reset_and_hazards.md R302). -/
theorem transact_loadProgram {bytes : List Byte} (h : bytes.length ≤ Config.maxImage) (now : Nat) (s : State) :
    transact (.loadProgram bytes now) s = atTime now s (.next ((s.hostLoad bytes now).emit .loaded)) :=
  if_neg (Nat.not_lt.2 h)

/-- A load of a longer image is rejected (60_exceptions.md R268). -/
theorem transact_loadProgram_rejected {bytes : List Byte} (h : Config.maxImage < bytes.length) (now : Nat) (s : State) :
    transact (.loadProgram bytes now) s = .next (s.emit .invalidProgram) := if_pos h

/-- A step whose inputs are sampled has a next state, and it is a transition. -/
theorem stepTransaction_transition {s u : State} {now : Nat} {rnd : Byte} (hu : Sampled s (u.latch now rnd) now) :
    ∃ t, stepTransaction now rnd u = .next t ∧ Transition s t := by
  obtain ⟨t, hguard, hcycle⟩ := guardedPart_cycle (u.latch now rnd)
  exact ⟨_, stepTransaction_of_guarded hguard, .step hu hcycle⟩

/-- The machine stops because time runs backwards, or it makes a transition. -/
theorem step_transition (s : State) :
    (TimeRunsBackwards s ∧ step s = .fault .timeRanBackwards) ∨ ∃ t, step s = .next t ∧ Transition s t := by
  cases hs : s.schedule with
  | nil =>
    rw [step_free hs]
    exact .inr (stepTransaction_transition (.free hs))
  | cons tr rest =>
    rw [step_scheduled hs]
    cases tr with
    | construct now =>
      rcases Nat.lt_or_ge now s.now with hnow | hnow
      · exact .inl ⟨⟨now, hnow, .inl ⟨rest, .inl hs⟩⟩, atTime_of_lt hnow _⟩
      · exact .inr ⟨_, atTime_of_le hnow _, .reset (.inl hs) hnow⟩
    | reset now =>
      rcases Nat.lt_or_ge now s.now with hnow | hnow
      · exact .inl ⟨⟨now, hnow, .inl ⟨rest, .inr (.inl hs)⟩⟩, atTime_of_lt hnow _⟩
      · exact .inr ⟨_, atTime_of_le hnow _, .reset (.inr hs) hnow⟩
    | loadProgram bytes now =>
      rcases Nat.lt_or_ge Config.maxImage bytes.length with hlen | hlen
      · exact .inr ⟨_, transact_loadProgram_rejected hlen now _, .answer hs (.rejected hlen)⟩
      · rw [transact_loadProgram hlen]
        rcases Nat.lt_or_ge now s.now with hnow | hnow
        · exact .inl ⟨⟨now, hnow, .inl ⟨rest, .inr (.inr ⟨bytes, hlen, hs⟩)⟩⟩, atTime_of_lt hnow _⟩
        · exact .inr ⟨_, atTime_of_le hnow _, .load hs hlen hnow⟩
    | step now rnd =>
      rcases Nat.lt_or_ge now s.now with hnow | hnow
      · exact .inl ⟨⟨now, hnow, .inr ⟨rnd, rest, hs⟩⟩, atTime_of_lt hnow _⟩
      · obtain ⟨t, ht, htrans⟩ := stepTransaction_transition (.scheduled (rnd := rnd) ⟨hs, hnow⟩)
        exact .inr ⟨t, (atTime_of_le (s := s.setSchedule rest) hnow _).trans ht, htrans⟩
    | pressKey k => exact .inr ⟨_, rfl, .press hs⟩
    | releaseKey k => exact .inr ⟨_, rfl, .release hs⟩
    | getScreen => exact .inr ⟨_, rfl, .answer hs .screen⟩
    | getFault => exact .inr ⟨_, rfl, .answer hs .fault⟩

/-- The one inversion lemma of the step: a next state is a transition's. -/
theorem transition_of_step {s t : State} (h : step s = .next t) : Transition s t := by
  obtain ⟨-, hstop⟩ | ⟨t', ht', htrans⟩ := step_transition s
  · rw [hstop] at h; cases h
  · cases ht'.symm.trans h
    exact htrans

/-! ### The invariant -/

/-- The reset machine meets the invariant, at every time and with every parameter. -/
theorem State.hostReset_inv (s : State) (now : Nat) : (s.hostReset now).Inv :=
  ⟨s.hostReset_wf now, Nat.zero_le _, rfl, le_rfl⟩

/-- The loaded machine meets the invariant. -/
theorem State.hostLoad_inv (s : State) (bytes : List Byte) (now : Nat) : (s.hostLoad bytes now).Inv :=
  ⟨s.hostLoad_wf bytes now, Nat.zero_le _, rfl, le_rfl⟩

/-- Settles O53: nothing is listed in memory, nothing is on the stack, no fault is recorded, and both times are the reset's. -/
theorem invariantHoldsAtReset : Obligations.InvariantHoldsAtReset := by
  have hall : ∀ p now l, ((State.resetWith p now).setSchedule l).Inv := fun p now l =>
    ⟨⟨List.Pairwise.nil, fun _ h => absurd h List.not_mem_nil⟩, Nat.zero_le _, rfl, le_rfl⟩
  exact ⟨hall Config.suggestedParams 0 [], hall⟩

/-- Taking a transaction off the schedule keeps the invariant. -/
theorem State.Inv.setSchedule {s : State} (h : s.Inv) (l : List Transaction) : (s.setSchedule l).Inv :=
  ⟨h.canonicalMemory, h.stackBounded, h.legalFault, h.tickInPast⟩

/-- An output keeps the invariant. -/
theorem State.Inv.emit {s : State} (h : s.Inv) (o : Output) : (s.emit o).Inv :=
  ⟨h.canonicalMemory, h.stackBounded, h.legalFault, h.tickInPast⟩

/-- A key press keeps the invariant, whether or not it resolves the lock. -/
theorem State.Inv.pressKey {s : State} (h : s.Inv) (k : Nibble) : (s.pressKey k).Inv := by
  unfold State.pressKey
  split
  · exact ⟨h.canonicalMemory, h.stackBounded, h.legalFault, h.tickInPast⟩
  · exact ⟨h.canonicalMemory, h.stackBounded, h.legalFault, h.tickInPast⟩

/-- A key release keeps the invariant. -/
theorem State.Inv.releaseKey {s : State} (h : s.Inv) (k : Nibble) : (s.releaseKey k).Inv :=
  ⟨h.canonicalMemory, h.stackBounded, h.legalFault, h.tickInPast⟩

/-- Sampling the inputs of a step keeps the invariant. -/
theorem Sampled.keeps_inv {s u : State} {now : Nat} (h : Sampled s u now) (hinv : s.Inv) : u.Inv ∧ u.now = now := by
  obtain ⟨hu, hnow⟩ := h.eq_with
  rw [hu]
  exact ⟨⟨hinv.canonicalMemory, hinv.stackBounded, hinv.legalFault, hinv.tickInPast.trans hnow⟩, rfl⟩

/-- The timer decay at the sampled time keeps the invariant. -/
theorem State.Inv.timerDecay {s : State} (h : s.Inv) : (s.timerDecay s.now).Inv := by
  refine ⟨h.canonicalMemory, h.stackBounded, h.legalFault, ?_⟩
  rw [State.timerDecay_lastTick, State.timerDecay_now]
  split
  · exact le_rfl
  · exact h.tickInPast

/-- Settles O54, by the moves of the machine. -/
theorem everyStepKeepsTheInvariant : Obligations.EveryStepKeepsTheInvariant := by
  intro s t hinv hstep
  cases transition_of_step hstep with
  | step hu hcycle =>
    obtain ⟨hinvu, hnow⟩ := hu.keeps_inv hinv
    rw [← hnow, ← hcycle.clockKept.now]
    exact (hcycle.keeps_inv hinvu).timerDecay
  | reset => exact State.hostReset_inv _ _
  | load => exact (State.hostLoad_inv _ _ _).emit _
  | press => exact (hinv.setSchedule _).pressKey _
  | release => exact (hinv.setSchedule _).releaseKey _
  | answer => exact (hinv.setSchedule _).emit _

end Sys2Proof.Machine
end

section
/-! Nothing reads ST or the outputs (10_state.md R30; 60_exceptions.md R271): every move of the machine is the same whatever
they hold, up to what they hold afterwards. -/

namespace Sys2Proof.Machine

/-- The machine with another ST and other outputs. -/
def State.withUnread (s : State) (v : Byte) (l : List Output) : State := { s with st := v, outputs := l }

/-- An active lock is resolved by a key press (45_timers_input.md R224). -/
theorem State.pressKey_of_active {s : State} (h : s.lock.active = true) (k : Nibble) :
    s.pressKey k = ((s.setKey k true).setV s.lock.target (k.setWidth 8)).setLock { s.lock with active := false } :=
  if_pos h

/-- With no lock active a key press only marks its key. -/
theorem State.pressKey_of_inactive {s : State} (h : s.lock.active = false) (k : Nibble) : s.pressKey k = s.setKey k true :=
  if_neg (Bool.eq_false_iff.1 h)

/-- A skip reads neither. -/
theorem State.skipIf_withUnread (s : State) (v : Byte) (l : List Output) (c : Bool) :
    (s.withUnread v l).skipIf c = (s.skipIf c).withUnread v l := by cases c <;> rfl

/-- A key press reads neither. -/
theorem State.pressKey_withUnread (s : State) (v : Byte) (l : List Output) (k : Nibble) :
    (s.withUnread v l).pressKey k = (s.pressKey k).withUnread v l := by
  cases h : s.lock.active with
  | true => rw [State.pressKey_of_active h, State.pressKey_of_active (s := s.withUnread v l) h]; rfl
  | false => rw [State.pressKey_of_inactive h, State.pressKey_of_inactive (s := s.withUnread v l) h]; rfl

/-- No fault condition reads ST or the outputs. -/
theorem faultOf_withUnread (i : Instr) (s : State) (v : Byte) (l : List Output) :
    faultOf i (s.withUnread v l) = faultOf i s := by cases i <;> rfl

/-- An instruction that completes does the same with another ST and other outputs; only LD ST, Vx writes ST. -/
theorem exec_withUnread_of_completes {i : Instr} {s : State} (hnone : faultOf i s = none) (v : Byte) (l : List Output) :
    ∃ t v', exec i s = .next t ∧ exec i (s.withUnread v l) = .next (t.withUnread v' l) := by
  have skip : ∀ c, (.next ((s.withUnread v l).skipIf c).advance : Result) = .next ((s.skipIf c).advance.withUnread v l) :=
    fun c => by rw [State.skipIf_withUnread]; rfl
  cases i
  case call nnn =>
    have hroom := not_of_ite_some_eq_none hnone
    exact ⟨_, v, exec_call_room hroom nnn, exec_call_room (s := s.withUnread v l) hroom nnn⟩
  case ret n =>
    cases hstack : s.stack with
    | nil => exact ⟨_, v, exec_ret_nil hstack n, exec_ret_nil (s := s.withUnread v l) hstack n⟩
    | cons a rest => exact ⟨_, v, exec_ret_cons hstack n, exec_ret_cons (s := s.withUnread v l) hstack n⟩
  case seImm x nn => exact ⟨_, v, exec_seImm x nn s, skip _⟩
  case sneImm x nn => exact ⟨_, v, exec_sneImm x nn s, skip _⟩
  case seReg x y => exact ⟨_, v, exec_seReg x y s, skip _⟩
  case sneReg x y => exact ⟨_, v, exec_sneReg x y s, skip _⟩
  case skp x =>
    have hrange := le_of_ite_some_eq_none hnone
    exact ⟨_, v, exec_skp_inRange hrange, (exec_skp_inRange (s := s.withUnread v l) hrange).trans (skip _)⟩
  case sknp x =>
    have hrange := le_of_ite_some_eq_none hnone
    exact ⟨_, v, exec_sknp_inRange hrange, (exec_sknp_inRange (s := s.withUnread v l) hrange).trans (skip _)⟩
  case drw x y n =>
    have hrange := drw_inRange_of_faultOf_eq_none hnone
    exact ⟨_, v, exec_drw_inRange hrange x y, exec_drw_inRange (s := s.withUnread v l) hrange x y⟩
  case ldB x =>
    have hrange := le_of_ite_some_eq_none hnone
    exact ⟨_, v, exec_ldB_inRange hrange x, exec_ldB_inRange (s := s.withUnread v l) hrange x⟩
  case storeRegs x =>
    have hrange := le_of_ite_some_eq_none hnone
    exact ⟨_, v, exec_storeRegs_inRange hrange, exec_storeRegs_inRange (s := s.withUnread v l) hrange⟩
  case loadRegs x =>
    have hrange := le_of_ite_some_eq_none hnone
    exact ⟨_, v, exec_loadRegs_inRange hrange, exec_loadRegs_inRange (s := s.withUnread v l) hrange⟩
  case ldSt x => exact ⟨_, s.v x, exec_ldSt x s, rfl⟩
  all_goals exact ⟨_, v, rfl, rfl⟩

/-- An instruction does the same with another ST and other outputs, whether it faults or completes. -/
theorem exec_withUnread (i : Instr) (s : State) (v : Byte) (l : List Output) :
    ∃ t v', exec i s = .next t ∧ exec i (s.withUnread v l) = .next (t.withUnread v' l) := by
  cases hf : faultOf i s with
  | some f =>
    exact ⟨_, v, faultingInstructionOnlyRecords i s f hf,
      faultingInstructionOnlyRecords i (s.withUnread v l) f ((faultOf_withUnread i s v l).trans hf)⟩
  | none => exact exec_withUnread_of_completes hf v l

/-- So does the execution part of a step, which adds the same report of an unknown opcode. -/
theorem guardedPart_withUnread (s : State) (v : Byte) (l : List Output) :
    ∃ t v' l', guardedPart s = .next t ∧ guardedPart (s.withUnread v l) = .next (t.withUnread v' l') := by
  by_cases hrun : s.runState = .running
  · rcases Nat.lt_or_ge 0xFFE s.pc.toNat with hpc | hpc
    · exact ⟨_, v, l, (guardedPart_running hrun).trans (executionPart_outOfRange hpc),
        (guardedPart_running (s := s.withUnread v l) hrun).trans (executionPart_outOfRange hpc)⟩
    · cases hdec : decode s.opcodeAt with
      | error r =>
        exact ⟨_, v, _ :: l, guardedPart_of_unknown hrun hpc hdec,
          guardedPart_of_unknown (s := s.withUnread v l) hrun hpc hdec⟩
      | ok i =>
        obtain ⟨t, v', hexec, hexec'⟩ := exec_withUnread i s v l
        exact ⟨t, v', l, (guardedPart_of_decode hrun hpc hdec).trans hexec,
          (guardedPart_of_decode (s := s.withUnread v l) hrun hpc hdec).trans hexec'⟩
  · exact ⟨s, v, l, guardedPart_suspended hrun, guardedPart_suspended (s := s.withUnread v l) hrun⟩

/-- So does a step, whose decay lowers whatever ST holds. -/
theorem stepTransaction_withUnread {s t : State} {now : Nat} {rnd : Byte} (h : stepTransaction now rnd s = .next t) (v : Byte)
    (l : List Output) : ∃ v' l', stepTransaction now rnd (s.withUnread v l) = .next (t.withUnread v' l') := by
  obtain ⟨g, v', l', hguard, hguard'⟩ := guardedPart_withUnread (s.latch now rnd) v l
  cases (stepTransaction_of_guarded hguard).symm.trans h
  exact ⟨_, l', stepTransaction_of_guarded (s := s.withUnread v l) hguard'⟩

/-- So does every transaction. -/
theorem transact_withUnread {tr : Transaction} {s t : State} (h : transact tr s = .next t) (v : Byte) (l : List Output) :
    ∃ v' l', transact tr (s.withUnread v l) = .next (t.withUnread v' l') := by
  cases tr with
  | construct now =>
    obtain ⟨hnow, hmove⟩ := atTime_eq_next h
    cases hmove
    exact ⟨0, l, atTime_of_le (s := s.withUnread v l) hnow _⟩
  | reset now =>
    obtain ⟨hnow, hmove⟩ := atTime_eq_next h
    cases hmove
    exact ⟨0, l, atTime_of_le (s := s.withUnread v l) hnow _⟩
  | loadProgram bytes now =>
    rcases Nat.lt_or_ge Config.maxImage bytes.length with hlen | hlen
    · rw [transact_loadProgram_rejected hlen] at h ⊢
      cases h
      exact ⟨v, _, rfl⟩
    · rw [transact_loadProgram hlen] at h ⊢
      obtain ⟨hnow, hmove⟩ := atTime_eq_next h
      cases hmove
      exact ⟨0, _, atTime_of_le (s := s.withUnread v l) hnow _⟩
  | step now rnd =>
    obtain ⟨hnow, hmove⟩ := atTime_eq_next h
    obtain ⟨v', l', hstep⟩ := stepTransaction_withUnread hmove v l
    exact ⟨v', l', (atTime_of_le (s := s.withUnread v l) hnow _).trans hstep⟩
  | pressKey k =>
    cases h
    exact ⟨v, l, congrArg Host.Outcome.next (s.pressKey_withUnread v l k)⟩
  | releaseKey k =>
    cases h
    exact ⟨v, l, rfl⟩
  | getScreen =>
    cases h
    exact ⟨v, _, rfl⟩
  | getFault =>
    cases h
    exact ⟨v, _, rfl⟩

/-- Settles O57: a scheduled transaction and a free-running step alike. -/
theorem soundTimerAndOutputsAreNeverRead : Obligations.SoundTimerAndOutputsAreNeverRead := by
  intro s t v l hstep
  obtain ⟨hs, hfree⟩ | ⟨tr, rest, hs, htransact⟩ := step_next_cases hstep
  · obtain ⟨v', l', h⟩ := stepTransaction_withUnread hfree v l
    exact ⟨v', l', (step_free (s := s.withUnread v l) hs).trans h⟩
  · obtain ⟨v', l', h⟩ := transact_withUnread htransact v l
    exact ⟨v', l', (step_scheduled (s := s.withUnread v l) hs).trans h⟩

end Sys2Proof.Machine
end

section
/-! One step of the block and its timers (40_execution_cycle.md R111 to R118; 60_exceptions.md R276): each kind of step as its
execution part and then the decay. -/

namespace Sys2Proof.Machine

open Laws.EncodesInItsRow (row_mem)

/-- Settles O37: the decay is three field updates, and each timer is its value less the seconds, floored at zero. -/
theorem decayLowersByWholeSeconds : Obligations.DecayLowersByWholeSeconds := fun _ _ =>
  ⟨⟨decayed_toNat .., decayed_toNat .., rfl⟩, rfl⟩

/-- The decay of a step whose execution part leaves the timers and the parameters. -/
theorem timersDecayed_of_eq {s g : State} (hdt : g.dt = s.dt) (hst : g.st = s.st) (hlast : g.lastTick = s.lastTick)
    (hparams : g.params = s.params) (now : Nat) : TimersDecayed now s (g.timerDecay now) := by
  have h := (decayLowersByWholeSeconds g now).1
  rwa [TimersDecayed, hdt, hst, hlast, hparams] at h

/-- A scheduled step is its execution part on the sampled state, and then the decay. -/
theorem step_of_guarded {s g : State} {now : Nat} {rnd : Byte} {rest : List Transaction} (h : StepScheduled s now rnd rest)
    (hg : guardedPart ((s.setSchedule rest).latch now rnd) = .next g) : step s = .next (g.timerDecay now) := by
  rw [step_of_stepScheduled h, stepTransaction_of_guarded hg]

/-- Settles O6: both kinds of step are `stepTransaction`, whose execution part is that of the decoded instruction. -/
theorem stepRunsTheDecodedInstruction : Obligations.StepRunsTheDecodedInstruction := by
  refine fun s i hrun hpc hdec => ⟨fun now rnd rest h => ?scheduled, fun h => ?free⟩
  case scheduled =>
    rw [step_of_stepScheduled h, stepTransaction,
      guardedPart_of_decode (s := (s.setSchedule rest).latch now rnd) hrun hpc hdec]
  case free =>
    rw [step_free h, freeStep, stepTransaction,
      guardedPart_of_decode (s := s.countDraw.latch s.freeNow s.freeRnd) hrun hpc hdec]

/-- A scheduled step whose execution part answers `g`, which has the block's state of the sampled machine but for `pc` and the
fault record: it leaves the block's state, and decays the timers. -/
theorem step_of_guarded_untouched {s g : State} {now : Nat} {rnd : Byte} {rest : List Transaction}
    (h : StepScheduled s now rnd rest) (hg : guardedPart ((s.setSchedule rest).latch now rnd) = .next g)
    (hu : Untouched ((s.setSchedule rest).latch now rnd) g) (hdt : g.dt = s.dt) (hst : g.st = s.st)
    (hlast : g.lastTick = s.lastTick) :
    step s = .next (g.timerDecay now) ∧ Untouched s (g.timerDecay now) ∧ TimersDecayed now s (g.timerDecay now) :=
  ⟨step_of_guarded h hg, ⟨hu.regs, hu.mem, hu.index, hu.stack, hu.keys, hu.lock, hu.screen, hu.params⟩,
    timersDecayed_of_eq hdt hst hlast hu.params now⟩

/-- A machine has its own block state, whatever its `pc`, its fault record and its outputs. -/
theorem Untouched.refl_with (s : State) (p : Word) (f : FaultRecord) (l : List Output) :
    Untouched s { s with pc := p, fault := f, outputs := l } :=
  ⟨fun _ => rfl, fun _ => rfl, rfl, rfl, rfl, rfl, rfl, rfl⟩

/-- Settles O7: the execution part is the report and the advance. -/
theorem unknownOpcodeIsReportedAndSkipped : Obligations.UnknownOpcodeIsReportedAndSkipped := by
  intro s now rnd rest h hrun hpc hdec
  obtain ⟨hstep, huntouched, htimers⟩ := step_of_guarded_untouched h
    (guardedPart_of_unknown (s := (s.setSchedule rest).latch now rnd) hrun hpc hdec) (Untouched.refl_with _ _ _ _) rfl rfl rfl
  exact ⟨_, hstep, rfl, rfl, rfl, huntouched, htimers⟩

/-- A fault on record or an active lock suspends the machine (10_state.md R37). -/
theorem State.runState_ne_running {s : State} (h : s.fault.valid = true ∨ s.lock.active = true) : s.runState ≠ .running := by
  intro hrun
  obtain ⟨hfault, hlock⟩ := State.runState_running.1 hrun
  obtain h | h := h
  · rw [hfault] at h; cases h
  · rw [hlock] at h; cases h

/-- Settles O8: the execution part is nothing. -/
theorem suspendedStepOnlyDecaysTimers : Obligations.SuspendedStepOnlyDecaysTimers := by
  intro s now rnd rest h hstop
  obtain ⟨hstep, huntouched, htimers⟩ := step_of_guarded_untouched h
    (guardedPart_suspended (s := (s.setSchedule rest).latch now rnd) (State.runState_ne_running hstop))
    (Untouched.refl_with _ _ _ _) rfl rfl rfl
  exact ⟨_, hstep, rfl, rfl, rfl, huntouched, htimers⟩

/-- Settles O9: the execution part is the record. -/
theorem fetchOutOfRangeIsRecorded : Obligations.FetchOutOfRangeIsRecorded := by
  intro s now rnd rest h hrun hpc
  obtain ⟨hstep, huntouched, htimers⟩ := step_of_guarded_untouched h
    ((guardedPart_running (s := (s.setSchedule rest).latch now rnd) hrun).trans (executionPart_outOfRange hpc))
    (Untouched.refl_with _ _ _ _) rfl rfl rfl
  exact ⟨_, hstep, rfl, rfl, rfl, huntouched, htimers⟩

/-- Settles O46: the jump's target is the `pc` it is at. -/
theorem selfJumpChangesOnlyTimers : Obligations.SelfJumpChangesOnlyTimers := by
  intro s now rnd rest nnn h hrun hpc hdec hself
  have htarget : absolute nnn = s.pc := BitVec.eq_of_toNat_eq ((absolute_toNat nnn).trans hself.symm)
  obtain ⟨hstep, huntouched, htimers⟩ := step_of_guarded_untouched h
    ((guardedPart_of_decode (s := (s.setSchedule rest).latch now rnd) hrun hpc hdec).trans (exec_jp nnn _))
    (Untouched.refl_with _ _ _ _) rfl rfl rfl
  exact ⟨_, hstep, htarget, rfl, rfl, huntouched, htimers⟩

/-- Settles O33: row 31 of the table, one write of ST, and the decay of what it wrote. -/
theorem soundTimerIsSetThenDecays : Obligations.SoundTimerIsSetThenDecays := by
  refine ⟨encodedBy_of_row (row_mem 30) rfl, fun x s => ⟨_, exec_ldSt x s, rfl, Frame.of_setSt s _, rfl⟩, ?_⟩
  intro x s now rnd rest h hrun hpc hdec
  exact ⟨_, step_of_decode h hrun hpc hdec (exec_ldSt x _), decayed_toNat ..⟩

end Sys2Proof.Machine
end

section
/-! The host's transactions (10_state.md R46): what a press, a reset, a load and the reads do. -/

namespace Sys2Proof.Machine

/-! ### Keys -/

/-- A scheduled `press_key` presses its key and does nothing else. -/
theorem step_pressKey {s : State} {k : Nibble} {rest : List Transaction} (h : s.schedule = .pressKey k :: rest) :
    step s = .next ((s.setSchedule rest).pressKey k) :=
  step_scheduled h

/-- Settles O35, with the lock active or not. -/
theorem pressResolvesTheLock : Obligations.PressResolvesTheLock := by
  intro s k rest h
  have hk : (k.setWidth 8).toNat = k.toNat := BitVec.toNat_setWidth_of_le (by decide)
  refine ⟨_, step_pressKey h, ?_⟩
  cases hlock : s.lock.active with
  | true =>
    rw [State.pressKey_of_active (s := s.setSchedule rest) hlock]
    refine ⟨fun j => ?_, rfl, rfl, fun j => ?_, rfl⟩
    · exact (s.setSchedule rest).setKey_key k true j
    · rw [State.setLock_v, State.setV_v, apply_ite BitVec.toNat, hk]
      exact if_congr (by simp) rfl rfl
  | false =>
    rw [State.pressKey_of_inactive (s := s.setSchedule rest) hlock]
    exact ⟨(s.setSchedule rest).setKey_key k true, hlock, rfl, fun j => (if_neg (by simp)).symm, rfl⟩

/-! ### Reset -/

/-- A scheduled construction or reset resets the machine (70_reset_and_hazards.md R300, R301). -/
theorem step_reset {s : State} {now : Nat} {rest : List Transaction}
    (h : s.schedule = .construct now :: rest ∨ s.schedule = .reset now :: rest) (hnow : s.now ≤ now) :
    step s = .next ((s.setSchedule rest).hostReset now) := by
  obtain h | h := h
  · exact (step_scheduled h).trans (atTime_of_le (s := s.setSchedule rest) hnow _)
  · exact (step_scheduled h).trans (atTime_of_le (s := s.setSchedule rest) hnow _)

/-- The reset contents of the font region (20_memory.md R59). -/
theorem unlistedByte_of_lt (font : Vector Byte Config.fontSize) {a : Nat} (h : a < Config.fontSize) :
    unlistedByte font a = font[a] := dif_pos h

/-- The reset contents of the rest of memory. -/
theorem unlistedByte_of_le (font : Vector Byte Config.fontSize) {a : Nat} (h : Config.fontSize ≤ a) :
    unlistedByte font a = 0 := dif_neg (Nat.not_lt.2 h)

/-- Every register is 0 after a reset. -/
theorem State.hostReset_v (s : State) (now : Nat) (j : RegIdx) : (s.hostReset now).v j = 0 :=
  Vector.getElem_replicate _

/-- Every key is released after a reset. -/
theorem State.hostReset_key (s : State) (now : Nat) (k : Nibble) : (s.hostReset now).key k = false :=
  Vector.getElem_replicate _

/-- Every pixel is off after a reset. -/
theorem State.hostReset_pixel (s : State) (now x y : Nat) : (s.hostReset now).screen.pixel x y = false :=
  Screen.blank_pixel x y

/-- Settles O47: the reset machine, field by field. -/
theorem resetEstablishesTheResetState : Obligations.ResetEstablishesTheResetState := by
  intro s now rest h hnow
  exact ⟨_, step_reset h hnow, rfl, (s.setSchedule rest).hostReset_v now, rfl, rfl, (s.setSchedule rest).hostReset_key now,
    rfl, (s.setSchedule rest).hostReset_pixel now, fun a ha => unlistedByte_of_lt _ ha, fun a ha => unlistedByte_of_le _ ha,
    rfl, rfl, rfl, rfl, rfl, rfl⟩

/-! ### Load -/

/-- A scheduled load of an image that fits loads it (70_reset_and_hazards.md R302). -/
theorem step_loadProgram {s : State} {bytes : List Byte} {now : Nat} {rest : List Transaction}
    (h : s.schedule = .loadProgram bytes now :: rest) (hnow : s.now ≤ now) (hlen : bytes.length ≤ Config.maxImage) :
    step s = .next (((s.setSchedule rest).hostLoad bytes now).emit .loaded) := by
  rw [step_scheduled h, transact_loadProgram hlen]
  exact atTime_of_le (s := s.setSchedule rest) hnow _

/-- What memory holds after a load: the image from 0x200 on, and the reset contents around it. -/
theorem State.hostLoad_readByte (s : State) {bytes : List Byte} (hlen : bytes.length ≤ Config.maxImage) (now a : Nat) :
    (s.hostLoad bytes now).readByte a =
      if 0x200 ≤ a ∧ a < 0x200 + bytes.length then bytes.getD (a - 0x200) 0 else unlistedByte s.params.font a :=
  (s.hostReset now).writeBytes_readByte 0x200 bytes a (by simp only [Config.maxImage, Config.memorySize] at *; omega)

/-- Outside the image a load leaves the reset contents. -/
theorem State.hostLoad_readByte_outside (s : State) {bytes : List Byte} (hlen : bytes.length ≤ Config.maxImage) (now : Nat)
    {a : Nat} (h : a < 0x200 ∨ 0x200 + bytes.length ≤ a) : (s.hostLoad bytes now).readByte a = unlistedByte s.params.font a := by
  rw [s.hostLoad_readByte hlen, if_neg (by omega)]

/-- Inside the image a load leaves its bytes. -/
theorem State.hostLoad_readByte_image (s : State) {bytes : List Byte} (hlen : bytes.length ≤ Config.maxImage) (now : Nat)
    {k : Nat} (h : k < bytes.length) : (s.hostLoad bytes now).readByte (0x200 + k) = bytes[k] := by
  rw [s.hostLoad_readByte hlen, if_pos (by omega), Nat.add_sub_cancel_left, List.getD_eq_getElem _ _ h]

/-- Settles O49: the reset state but for memory, which holds the image over its reset contents. -/
theorem loadResetsAndCopiesTheImage : Obligations.LoadResetsAndCopiesTheImage := by
  intro s bytes now rest h hnow hlen
  refine ⟨_, step_loadProgram h hnow hlen, rfl, rfl, (s.setSchedule rest).hostReset_v now, rfl, rfl,
    (s.setSchedule rest).hostReset_key now, rfl, (s.setSchedule rest).hostReset_pixel now, fun a ha => ?font,
    fun k hk => (s.setSchedule rest).hostLoad_readByte_image hlen now hk, fun a hlow _ ha => ?zero,
    rfl, rfl, rfl, rfl, rfl, rfl⟩
  case font =>
    exact ((s.setSchedule rest).hostLoad_readByte_outside hlen now (by omega)).trans (unlistedByte_of_lt _ ha)
  case zero => exact ((s.setSchedule rest).hostLoad_readByte_outside hlen now ha).trans (unlistedByte_of_le _ hlow)

/-- Settles O48, for the three transactions that reset. -/
theorem timersAreZeroAfterReset : Obligations.TimersAreZeroAfterReset := by
  intro s now rest bytes h hnow
  obtain h | h | ⟨h, hlen⟩ := h
  · exact ⟨_, step_reset (.inl h) hnow, rfl, rfl, rfl⟩
  · exact ⟨_, step_reset (.inr h) hnow, rfl, rfl, rfl⟩
  · exact ⟨_, step_loadProgram h hnow hlen, rfl, rfl, rfl⟩

/-- Settles O50: the load is rejected before anything else. -/
theorem tooLongImageChangesNothing : Obligations.TooLongImageChangesNothing := fun _ _ now _ h hlen =>
  (step_scheduled h).trans (transact_loadProgram_rejected hlen now _)

/-- Settles O52: the step is only the emission of the record. -/
theorem faultReadChangesNothing : Obligations.FaultReadChangesNothing := fun _ _ h =>
  ⟨_, step_scheduled h, rfl, rfl, rfl, ⟨fun _ => rfl, fun _ => rfl, rfl, rfl, rfl, rfl, rfl, rfl⟩, rfl, rfl, rfl⟩

end Sys2Proof.Machine
end

section
/-! What every transaction keeps (10_state.md R37, R40; 45_timers_input.md R226; 60_exceptions.md R264, R283), by the moves of
the machine; when it stops; and the placing of a word where it fetches. -/

namespace Sys2Proof.Machine

/-- Sampling the inputs of a step leaves the block's state and the parameters. -/
theorem Sampled.kept {s u : State} {now : Nat} (h : Sampled s u now) :
    u.dt = s.dt ∧ u.fault = s.fault ∧ u.lock = s.lock ∧ u.params = s.params := by
  cases h with
  | scheduled => exact ⟨rfl, rfl, rfl, rfl⟩
  | free => exact ⟨rfl, rfl, rfl, rfl⟩

/-- A key press leaves DT, the fault record and the parameters. -/
theorem State.pressKey_kept (s : State) (k : Nibble) :
    (s.pressKey k).dt = s.dt ∧ (s.pressKey k).fault = s.fault ∧ (s.pressKey k).params = s.params := by
  unfold State.pressKey
  split
  · exact ⟨rfl, rfl, rfl⟩
  · exact ⟨rfl, rfl, rfl⟩

/-- A suspended machine's step is the decay alone. -/
theorem Cycle.eq_of_suspended {s t : State} (h : Cycle s t) (hstop : s.runState ≠ .running) : t = s := by
  cases h with
  | suspended => rfl
  | fetchFault hrun => exact absurd hrun hstop
  | unknown hrun => exact absurd hrun hstop
  | faulted hrun => exact absurd hrun hstop
  | completed hrun => exact absurd hrun hstop

/-- Settles O38: only the decay writes DT, and a reset zeroes it. -/
theorem delayTimerNeverRises : Obligations.DelayTimerNeverRises := by
  intro s t hstep
  cases transition_of_step hstep with
  | step hu hcycle =>
    obtain ⟨hdt, -⟩ := hu.kept
    rw [State.timerDecay_dt, decayed_toNat, hcycle.clockKept.dt, hdt]
    exact Nat.sub_le ..
  | reset => exact Nat.zero_le _
  | load => exact Nat.zero_le _
  | press => exact (congrArg BitVec.toNat (State.pressKey_kept _ _).1).le
  | release => exact le_rfl
  | answer => exact le_rfl

/-- Settles O55, by the moves of the machine. -/
theorem parametersNeverChange : Obligations.ParametersNeverChange := by
  intro s t hstep
  cases transition_of_step hstep with
  | step hu hcycle =>
    obtain ⟨-, -, -, hparams⟩ := hu.kept
    exact hcycle.clockKept.params.trans hparams
  | reset => rfl
  | load => rfl
  | press =>
    obtain ⟨-, -, hparams⟩ := State.pressKey_kept (s.setSchedule _) _
    exact hparams
  | release => rfl
  | answer => rfl

/-- A transaction that is none of the three that reset. -/
theorem not_resetScheduled_of_cons {s : State} {tr : Transaction} {rest : List Transaction} (hs : s.schedule = tr :: rest)
    (hconstruct : ∀ now, tr ≠ .construct now) (hreset : ∀ now, tr ≠ .reset now)
    (hload : ∀ bytes now, bytes.length ≤ 3584 → tr ≠ .loadProgram bytes now) : ¬ ∃ now, ResetScheduled s now := by
  rintro ⟨now, rest', h | h | ⟨bytes, hlen, h⟩⟩
  · exact hconstruct now (List.cons.inj (hs.symm.trans h)).1
  · exact hreset now (List.cons.inj (hs.symm.trans h)).1
  · exact hload bytes now hlen (List.cons.inj (hs.symm.trans h)).1

/-- A step of the block is no reset. -/
theorem Sampled.not_resetScheduled {s u : State} {now : Nat} (h : Sampled s u now) : ¬ ∃ now, ResetScheduled s now := by
  cases h with
  | scheduled h => exact not_resetScheduled_of_cons h.1 nofun nofun nofun
  | free h => rintro ⟨_, _, hr | hr | ⟨_, -, hr⟩⟩ <;> cases h.symm.trans hr

/-- A transaction that only answers is no reset: a load it rejects is too long. -/
theorem Answers.not_resetScheduled {s : State} {tr : Transaction} {o : Output} {rest : List Transaction}
    (hs : s.schedule = tr :: rest) (h : Answers s tr o) : ¬ ∃ now, ResetScheduled s now := by
  cases h with
  | screen => exact not_resetScheduled_of_cons hs nofun nofun nofun
  | fault => exact not_resetScheduled_of_cons hs nofun nofun nofun
  | rejected hlong =>
    refine not_resetScheduled_of_cons hs nofun nofun fun bytes now hlen heq => ?_
    cases heq
    exact Nat.not_lt.2 hlen hlong

/-- A fault on record is the FAULTED state (10_state.md R37). -/
theorem State.runState_of_fault {s : State} (h : s.fault.valid = true) : s.runState = .faulted := if_pos h

/-- The moves that reset, and what all others do to a FAULTED machine: nothing to its record. -/
theorem Transition.faulted_cases {s t : State} (h : Transition s t) (hfault : s.fault.valid = true) :
    ((∃ now, ResetScheduled s now) ∧ t.fault = FaultRecord.clear ∧ t.runState = .running) ∨
      ((¬ ∃ now, ResetScheduled s now) ∧ t.fault = s.fault) := by
  cases h with
  | step hu hcycle =>
    obtain ⟨-, hkept, -, -⟩ := hu.kept
    rw [hcycle.eq_of_suspended (State.runState_ne_running (.inl (hkept ▸ hfault)))]
    exact .inr ⟨hu.not_resetScheduled, hkept⟩
  | reset hs hnow => exact .inl ⟨⟨_, _, hs.imp_right .inl⟩, rfl, rfl⟩
  | load hs hlen hnow => exact .inl ⟨⟨_, _, .inr (.inr ⟨_, hlen, hs⟩)⟩, rfl, rfl⟩
  | press hs =>
    obtain ⟨-, hkept, -⟩ := State.pressKey_kept (s.setSchedule _) _
    exact .inr ⟨not_resetScheduled_of_cons hs nofun nofun nofun, hkept⟩
  | release hs => exact .inr ⟨not_resetScheduled_of_cons hs nofun nofun nofun, rfl⟩
  | answer hs ho => exact .inr ⟨ho.not_resetScheduled hs, rfl⟩

/-- Settles O44: a move of a FAULTED machine resets it or keeps its record. -/
theorem faultIsStickyUntilReset : Obligations.FaultIsStickyUntilReset := by
  intro s t hfault hstep
  obtain ⟨hreset, hclear⟩ | ⟨hnot, hkept⟩ := (transition_of_step hstep).faulted_cases hfault
  · exact ⟨fun _ => hclear, fun hnot => absurd hreset hnot⟩
  · exact ⟨fun hreset => absurd hreset hnot, fun _ => ⟨hkept, State.runState_of_fault (hkept ▸ hfault)⟩⟩

/-- Settles O45: of the moves that are neither a press nor a reset, none writes an active lock. -/
theorem lockIsLeftOnlyByPressOrReset : Obligations.LockIsLeftOnlyByPressOrReset := by
  intro s t hlock hstep hleft
  cases transition_of_step hstep with
  | step hu hcycle =>
    obtain ⟨-, -, hkept, -⟩ := hu.kept
    rw [hcycle.eq_of_suspended (State.runState_ne_running (.inr (hkept ▸ hlock)))] at hleft
    exact absurd hkept hleft
  | reset hs => exact ⟨_, .inr ⟨_, hs.imp_right .inl⟩⟩
  | load hs hlen => exact ⟨_, .inr ⟨_, .inr (.inr ⟨_, hlen, hs⟩)⟩⟩
  | press hs => exact ⟨_, .inl ⟨_, hs⟩⟩
  | release => exact absurd rfl hleft
  | answer => exact absurd rfl hleft

/-- A transaction that samples an earlier time stops the machine. -/
theorem step_of_timeRunsBackwards {s : State} (h : TimeRunsBackwards s) : step s = .fault .timeRanBackwards := by
  obtain ⟨now, hnow, ⟨rest, hs | hs | ⟨bytes, hlen, hs⟩⟩ | ⟨rnd, rest, hs⟩⟩ := h
  · exact (step_scheduled hs).trans (atTime_of_lt (s := s.setSchedule rest) hnow _)
  · exact (step_scheduled hs).trans (atTime_of_lt (s := s.setSchedule rest) hnow _)
  · rw [step_scheduled hs, transact_loadProgram hlen]
    exact atTime_of_lt (s := s.setSchedule rest) hnow _
  · exact (step_scheduled hs).trans (atTime_of_lt (s := s.setSchedule rest) hnow _)

/-- Settles O56: every other transaction, and every free-running step, is a transition. -/
theorem onlyBackwardTimeStops : Obligations.OnlyBackwardTimeStops := by
  refine fun s => ⟨step_of_timeRunsBackwards, fun hnot => ?_⟩
  obtain ⟨hback, -⟩ | ⟨t, hstep, -⟩ := step_transition s
  · exact absurd hback hnot
  · exact ⟨t, hstep⟩

/-! ### The placing of a word (log 14) -/

/-- A word is placed at a fetchable address. -/
theorem State.fetchAddress_le (s : State) : s.fetchAddress.toNat ≤ 0xFFE := by
  unfold State.fetchAddress
  split
  next h =>
    have hrange := (inRange_iff _ _).1 h
    omega
  next => decide

/-- A word stored at `pc`, high byte first, is the word at `pc` (20_memory.md R52). -/
theorem State.opcodeAt_writeBytes_pc {s : State} (hpc : s.pc.toNat ≤ 0xFFE) (op : Word) :
    (s.writeBytes s.pc.toNat [highByte op, lowByte op]).opcodeAt = op := by
  have hread := fun c => s.writeBytes_readByte s.pc.toNat [highByte op, lowByte op] c
    (by simp only [List.length_cons, List.length_nil, Config.memorySize]; omega)
  have hhigh := hread s.pc.toNat
  have hlow := hread (s.pc.toNat + 1)
  rw [if_pos (by simp), Nat.sub_self] at hhigh
  rw [if_pos (by simp), Nat.add_sub_cancel_left] at hlow
  exact (congrArg₂ wordOfBytes hhigh hlow).trans (wordOfBytes_highByte_lowByte op)

/-- Whether a step is next depends on the schedule and the time alone. -/
theorem State.stepIsNext_congr {s t : State} (hs : t.schedule = s.schedule) (hnow : t.now = s.now) :
    t.stepIsNext = s.stepIsNext := by
  unfold State.stepIsNext
  rw [hs, hnow]

/-- With a word placed, a step is next: the schedule's own, or, with the schedule emptied, a free-running one. -/
theorem State.placeOpcode_stepIsNext (s : State) (op : Word) : (s.placeOpcode op).stepIsNext = true := by
  cases h : s.stepIsNext with
  | true => exact (State.stepIsNext_congr (s := s) (t := s.placeOpcode op) (if_pos h) rfl).trans h
  | false =>
    have hempty : (s.placeOpcode op).schedule = [] := if_neg (Bool.eq_false_iff.1 h)
    exact State.stepIsNext_congr (s := s.setSchedule []) hempty rfl

/-- Settles O58: the word is stored at the fetch address, and the three conditions of a fetch are set up with it. -/
theorem placedWordIsFetchedNext : Obligations.PlacedWordIsFetchedNext := fun s _ _ =>
  ⟨State.opcodeAt_writeBytes_pc s.fetchAddress_le _, State.runState_running.2 ⟨rfl, rfl⟩, s.fetchAddress_le,
    s.placeOpcode_stepIsNext _⟩

end Sys2Proof.Machine
end
